-- ==== Sys2Proof/Word.lean ====
section
/-! DEFINITION. The word types of the engine: the 32-bit command and response word (R54, R61), the 4-bit cell (R33),
and the field `v[hi:lo]` of rule R9. -/

namespace Sys2Proof

/-- A command word or a response word (R54, R61). -/
abbrev Word := BitVec 32

/-- One cell of a frame: a 4-bit intensity (R33). -/
abbrev Cell := BitVec 4

/-- `v[lo + len - 1 : lo]`, the field of `len` bits whose lowest bit is bit `lo` (R9). -/
abbrev Word.field (w : Word) (lo len : Nat) : BitVec len := w.extractLsb' lo len

end Sys2Proof
end

