-- ==== Sys2Proof/Syntax.lean ====
section
/-! DEFINITION. The operations of the engine: one constructor per row of the opcode table, twelve commands and two events
(R62). An operand is the field of the word as it stands; what it means as a number is `Machine/Operands.lean` (R64). -/

namespace Sys2Proof

/-- The rows of rule R62. -/
inductive Instr where
  /-- `INIT cc, pol`, format C (R57, R117). -/
  | init (cc : BitVec 2) (pol : BitVec 1)
  /-- `START`, format Z (R118). -/
  | start
  /-- `STOP`, format Z (R119). -/
  | stop
  /-- `SETBRI b`, format I (R121). -/
  | setbri (b : BitVec 16)
  /-- `GETBRI`, format Z (R122). -/
  | getbri
  /-- `SETCOL v`, format I (R109). -/
  | setcol (v : BitVec 16)
  /-- `GETCOL`, format Z (R112). -/
  | getcol
  /-- `SETVAR pol`, format V (R58, R123). -/
  | setvar (pol : BitVec 1)
  /-- `SETFRAME`, format Z (R96). -/
  | setframe
  /-- `WAITSYNC t`, format I, `t` decoded and ignored (R100). -/
  | waitsync (t : BitVec 16)
  /-- `SETPIX x, y, d`, format P (R103). -/
  | setpix (x y : BitVec 12) (d : Cell)
  /-- `GETPIX x, y`, format P with `d = 0` (R104). -/
  | getpix (x y : BitVec 12)
  /-- `RTICK`, event 0, the refresh interrupt's handler (R60, R84). -/
  | rtick
  /-- `CTICK`, event 1, the colour-cycle interrupt's handler (R60, R113). -/
  | ctick
  deriving DecidableEq, Repr

end Sys2Proof
end

