-- ==== Sys2Proof/WellFormed.lean ====
section
/-! DEFINITION. Which instruction terms an encoding exists for. Every field has the width of its place in the word, so the one
check left is the profile's channel count: "cc = 0b00 is reserved" (R57, R65). -/

namespace Sys2Proof

/-- The term is an instruction of rule R62: INIT carries a channel count in 1..3 (R57). -/
def Instr.wellFormed : Instr → Bool
  | .init cc _ => cc != 0
  | .start => true
  | .stop => true
  | .setbri _ => true
  | .getbri => true
  | .setcol _ => true
  | .getcol => true
  | .setvar _ => true
  | .setframe => true
  | .waitsync _ => true
  | .setpix _ _ _ => true
  | .getpix _ _ => true
  | .rtick => true
  | .ctick => true

end Sys2Proof
end

