-- ==== Sys2Proof/Decode.lean ====
section
/-! DEFINITION. The decoder of rules R54 to R65, total on every 32-bit word and every interrupt number, rejecting by name;
and, after it, the encoder, written from the same tables. -/

namespace Sys2Proof

/-- Why the decoder rejects a word (R65). -/
inductive Reject where
  /-- `op` is 0x0, 0xD, 0xE or 0xF. -/
  | reservedOpcode
  /-- A must-be-zero bit of the word's format is 1 (R55 to R58). -/
  | mustBeZero
  /-- INIT with `cc = 0b00` (R57). -/
  | channelCountZero
  /-- GETPIX with `d ≠ 0` (R59). -/
  | intensityNotZero
  deriving DecidableEq, Repr

/-- What the engine can be told to do: a command word from the host (R54), or the number of an interrupt source, which
is no command word (R60). -/
inductive Code where
  | command (w : Word)
  | irq (source : BitVec 1)
  deriving DecidableEq, Repr

/-- Accept `i` when the must-be-zero bits of the word's format are zero (R55 to R58). -/
def whenZero {len : Nat} (zero : BitVec len) (r : Except Reject Instr) : Except Reject Instr :=
  if zero = 0 then r else .error .mustBeZero

/-- Formats Z, I, C, V and P by opcode: test `w[31:28]`, then the must-be-zero bits, then the row's constraint (R62, R63). -/
def decodeWord (w : Word) : Except Reject Instr :=
  match (w.field 28 4).toNat with
  | 0x1 => whenZero (w.field 3 25)
      (if w.field 0 2 = 0 then .error .channelCountZero else .ok (.init (w.field 0 2) (w.field 2 1)))
  | 0x2 => whenZero (w.field 0 28) (.ok .start)
  | 0x3 => whenZero (w.field 0 28) (.ok .stop)
  | 0x4 => whenZero (w.field 16 12) (.ok (.setbri (w.field 0 16)))
  | 0x5 => whenZero (w.field 0 28) (.ok .getbri)
  | 0x6 => whenZero (w.field 16 12) (.ok (.setcol (w.field 0 16)))
  | 0x7 => whenZero (w.field 0 28) (.ok .getcol)
  | 0x8 => whenZero (w.field 1 27) (.ok (.setvar (w.field 0 1)))
  | 0x9 => whenZero (w.field 0 28) (.ok .setframe)
  | 0xA => whenZero (w.field 16 12) (.ok (.waitsync (w.field 0 16)))
  | 0xB => .ok (.setpix (w.field 0 12) (w.field 12 12) (w.field 24 4))
  | 0xC => if w.field 24 4 = 0 then .ok (.getpix (w.field 0 12) (w.field 12 12)) else .error .intensityNotZero
  | _ => .error .reservedOpcode

/-- Format IRQ: 0 is the refresh interrupt, 1 the colour-cycle interrupt (R60). -/
def decodeIrq (source : BitVec 1) : Instr :=
  if source = 0 then .rtick else .ctick

/-- The decoder, total (R63). -/
def decode : Code → Except Reject Instr
  | .command w => decodeWord w
  | .irq n => .ok (decodeIrq n)

/-- Format Z: the opcode, then zeros (R55). -/
def formatZ (op : BitVec 4) : Word := op ++ 0#28
/-- Format I: the opcode, zeros, the immediate (R56). -/
def formatI (op : BitVec 4) (imm : BitVec 16) : Word := op ++ 0#12 ++ imm
/-- Format C: the opcode, zeros, the polarity, the channel count (R57). -/
def formatC (op : BitVec 4) (pol : BitVec 1) (cc : BitVec 2) : Word := op ++ 0#25 ++ pol ++ cc
/-- Format V: the opcode, zeros, the polarity (R58). -/
def formatV (op : BitVec 4) (pol : BitVec 1) : Word := op ++ 0#27 ++ pol
/-- Format P: the opcode, the intensity, the row, the column (R59). -/
def formatP (op d : BitVec 4) (y x : BitVec 12) : Word := op ++ d ++ y ++ x

/-- The code of an instruction: a command's word, or an event's source number (R62). -/
def encode : Instr → Code
  | .init cc pol => .command (formatC 0x1 pol cc)
  | .start => .command (formatZ 0x2)
  | .stop => .command (formatZ 0x3)
  | .setbri b => .command (formatI 0x4 b)
  | .getbri => .command (formatZ 0x5)
  | .setcol v => .command (formatI 0x6 v)
  | .getcol => .command (formatZ 0x7)
  | .setvar pol => .command (formatV 0x8 pol)
  | .setframe => .command (formatZ 0x9)
  | .waitsync t => .command (formatI 0xA t)
  | .setpix x y d => .command (formatP 0xB d y x)
  | .getpix x y => .command (formatP 0xC 0 y x)
  | .rtick => .irq 0
  | .ctick => .irq 1

/-- The 32 bits of a code; a source number is widened with zeros. -/
def Code.word : Code → Word
  | .command w => w
  | .irq n => n.setWidth 32

/-- The command word of an instruction, the `w` of `PreconditionViolation(w)` (R132; DEDUCED, log 22). -/
def commandWord (i : Instr) : Word := (encode i).word

/-- The instruction the decoder reads from `nbits` table bits numbered as spec/opcode_table.json numbers them. The events'
rows have one bit (one byte as the table rounds), every command row has 32 (DESIGN CHOICE, log 23). -/
def decodeTableWord (nbits w : Nat) : Option Instr :=
  if nbits ≤ 8 then
    if w < 2 then some (decodeIrq (BitVec.ofNat 1 w)) else none
  else if w < 2 ^ 32 then
    match decodeWord (BitVec.ofNat 32 w) with
    | .ok i => some i
    | .error _ => none
  else none

end Sys2Proof
end

