-- ==== Sys2Proof/Config.lean ====
section
/-! DEFINITION. What is fixed for the machine (R7, R8, R27), the parameters the spec leaves OPEN (R7, D21, D22, D26, D6),
and the free values: what the spec leaves unspecified or unordered. An `opaque` constant has no body a proof could look
into, so whatever is proved holds for every value of it. -/

namespace Sys2Proof

/-- One of the three buffers of the frame store, a slot index in {0, 1, 2} (R24, R33). "The value 3 never occurs" (R24):
it is no value of this type (DEDUCED, log 16). -/
inductive Slot where
  | s0
  | s1
  | s2
  deriving DecidableEq, Repr, Inhabited

/-- The slot's index, the 2-bit value of a role register (R24). -/
def Slot.index : Slot → BitVec 2
  | .s0 => 0
  | .s1 => 1
  | .s2 => 2

/-- The four address spaces (R39). -/
inductive Space where
  | buf (slot : Slot)
  | stage
  deriving DecidableEq, Repr, Inhabited

/-- Who may move when no interrupt is pending: the host, or time going by one dwell or one cycle time unit (R28, R29,
R159; DESIGN CHOICE, logs 6 and 7). -/
inductive Mover where
  | host
  | dwellUnit
  | cycUnit
  deriving DecidableEq, Repr, Inhabited

namespace Config

/-- `W`, logical columns (R7). -/
abbrev width : Nat := 128
/-- `H`, logical rows (R7). -/
abbrev height : Nat := 32
/-- `SCANROWS`, scan rows (R7). -/
abbrev scanRows : Nat := 16
/-- `BITDEPTH`, bit-planes (R7). -/
abbrev bitDepth : Nat := 4
/-- `W × H`, the cells of one frame (R33). -/
abbrev cells : Nat := 4096
/-- `BRI_MAX` (R7). -/
abbrev briMax : Nat := 63
/-- `CYC_PERIOD`, in cycle time units (R7, R29). -/
abbrev cycPeriod : BitVec 6 := 60

/-- `SCHED`, the read-only table of dwells, one per bit-plane, in dwell time units (R8, R27). -/
def sched (k : BitVec 2) : BitVec 6 :=
  match k.toNat with
  | 0 => 1
  | 1 => 2
  | 2 => 30
  | _ => 45

/-- OPEN: `START_DELAY`, the load of the dwell timer at `START`, any count that fits `DWELL_CNT` (R118, D22; DESIGN CHOICE,
logs 4, 5). -/
opaque startDelay : BitVec 6

/-- OPEN: `BRIGHTNESS_INIT`, in [0, 63] (R7, D26; DESIGN CHOICE, log 4). -/
opaque brightnessInit : BitVec 6

/-- OPEN: the choice behind `COLOUR_INIT`, one number per channel count (DESIGN CHOICE, log 4). -/
opaque colourChoice : BitVec 2 → Nat

/-- OPEN: `OE_ACTIVE_LEVEL`, the level of pin `OE` that enables the panel output (R32, D6; DESIGN CHOICE, log 4). -/
opaque oeActiveLevel : Bool

/-- OPEN: the real durations of R7 and R159, as natural numbers of some grain of time, less one: "any positive duration"
(D21; DESIGN CHOICE, log 20). No step of the machine reads them. -/
opaque dwellUnitLessOne : Nat
/-- See `dwellUnitLessOne`. -/
opaque cycUnitLessOne : Nat
/-- See `dwellUnitLessOne`. -/
opaque shiftLessOne : Nat
/-- OPEN: how long a tick takes to clock its first `n` columns (R82, R155); the spec gives no figure (DESIGN CHOICE, log
20). -/
opaque columnTime : Nat → Nat

/-- FREE VALUE: what a cell holds that nothing has written since reset, "unspecified: any value of the item's type, fixed from
then until the item is next written" (R38, R40, U5; DESIGN CHOICE, log 2). -/
opaque initialCell : Space → Nat → Cell

/-- FREE VALUE: who moves before mover `m` is named, when the free order of moves is drawn for the n-th time: any list, of any
length (R162, U12; DESIGN CHOICE, log 6). -/
opaque turnsBefore : Nat → Mover → List Mover

/-- FREE VALUE: which of the cells not yet copied a SETFRAME copies at the n-th choice (R97, U6; DESIGN CHOICE, log 9). -/
opaque copyPick : Nat → Nat

end Config

end Sys2Proof
end

