-- ==== Sys2Proof/Machine/State.lean ====
section
/-! DEFINITION. The state of the engine (R11 to R37), the ways a step can stop (R134), and the state after hardware reset
(R38, R147). -/

namespace Sys2Proof.Machine

/-- One address space (R39): the cells written since reset, each under its number `y * 128 + x`, numbers strictly rising. An
unlisted cell holds no written value (`State.readCell` says what it reads as; DESIGN CHOICE, logs 2 and 3). -/
abbrev Memory := List (Nat × Cell)

/-- `HOST_OP`: what the host's current command is doing (R35 b). -/
inductive HostOp where
  /-- No command is in flight. -/
  | idle
  /-- A SETFRAME has begun its copy and not yet exchanged. -/
  | copying
  /-- A WAITSYNC has not yet responded. -/
  | waiting
  deriving DecidableEq, Repr

/-- The levels of the six data pins, one entry of the abstract panel's registers (R37). -/
structure Levels where
  d1 : BitVec 3
  d2 : BitVec 3
  deriving DecidableEq, Repr

/-- The pin events of the output trace (R36). -/
inductive Event where
  /-- The logical output-enable becomes `e`. -/
  | oe (e : Bool)
  /-- Pins D1 and D2 take these levels. -/
  | data (d1 d2 : BitVec 3)
  /-- One pulse of pin CLK. -/
  | clk
  /-- Pins A[3:0] take the value `a`. -/
  | addr (a : BitVec 4)
  /-- One pulse of pin LAT. -/
  | lat
  /-- The dwell timer is loaded with `n` and armed. -/
  | arm (n : BitVec 6)
  deriving DecidableEq, Repr

/-- The two interrupt sources (R60, R135, R136). -/
inductive IrqSource where
  | refresh
  | colourCycle
  deriving DecidableEq, Repr

/-- The state (R11). The names are the spec's where it has one. -/
structure State where
  /-- `INIT` (R12). -/
  initialised : Bool
  /-- `RUN` (R13). -/
  run : Bool
  /-- `ARMED` (R14). -/
  armed : Bool
  /-- `CYC_RUN` (R15). -/
  cycRun : Bool
  /-- `ROW` (R17). -/
  row : BitVec 4
  /-- `BP` (R17). -/
  bp : BitVec 2
  /-- `BRI` (R19). -/
  bri : BitVec 6
  /-- `COL` (R20). -/
  col : BitVec 3
  /-- `POL` (R21). -/
  pol : BitVec 1
  /-- `CC` (R22). -/
  cc : BitVec 2
  /-- `PUB` (R24). -/
  pub : Slot
  /-- `PEND` (R24). -/
  pend : Slot
  /-- `INUSE` (R24). -/
  inuse : Slot
  /-- `DWELL_CNT` (R28); it keeps its last count while `ARMED = 0` (DESIGN CHOICE, log 26). -/
  dwellCnt : BitVec 6
  /-- `CYC_CNT` (R29); it keeps its last count while `CYC_RUN = 0` (DESIGN CHOICE, log 26). -/
  cycCnt : BitVec 6
  /-- Pins `D1[2:0]` (R31). The pins are the thirteen bits R31 lists, D1, D2, CLK, LAT, OE and A; R31, R143 and D5 count
  fourteen and name no other (DESIGN CHOICE, log 25). -/
  d1 : BitVec 3
  /-- Pins `D2[2:0]` (R31). -/
  d2 : BitVec 3
  /-- Pin `CLK` (R31). -/
  clk : Bool
  /-- Pin `LAT` (R31). -/
  lat : Bool
  /-- Pin `OE`, the logical value: enabled (R31, R32). -/
  oe : Bool
  /-- Pins `A[3:0]` (R31). -/
  a : BitVec 4
  /-- `buf[0]` (R33). -/
  buf0 : Memory
  /-- `buf[1]` (R33). -/
  buf1 : Memory
  /-- `buf[2]` (R33). -/
  buf2 : Memory
  /-- `stage` (R34). -/
  stage : Memory
  /-- `HOST_OP` (R35). -/
  hostOp : HostOp
  /-- `COPIED`, as the numbers of the copied cells, strictly rising (R35). -/
  copied : List Nat
  /-- `TRACE`, oldest event first (R36). -/
  trace : List Event
  /-- `SR` of the abstract panel, `SR[0]` first (R37). -/
  sr : List Levels
  /-- `LATCHED` of the abstract panel (R37). -/
  latched : List Levels
  /-- `LROW` of the abstract panel (R37). -/
  lrow : BitVec 4
  /-- The words the host has yet to see answered, in program order; the head is at the command port (R54; DESIGN CHOICE, log
  8). -/
  cmds : List Word
  /-- The response words given, oldest first (R61; DESIGN CHOICE, log 8). -/
  responses : List Word
  /-- The model's own: who moves in the next contested steps; when it is empty, moves that name every mover are drawn (R162;
  DESIGN CHOICE, logs 6 and 17). -/
  turns : List Mover
  /-- The model's own: which uncopied cell the next copies take (DESIGN CHOICE, logs 9 and 17). -/
  picks : List Nat
  /-- The model's own: how many opaque choices have been drawn (DESIGN CHOICE, log 17). -/
  draws : Nat
  deriving DecidableEq, Repr

/-- Why a step stops: there is one fault (R134). -/
inductive Fault where
  /-- Raised by every command but INIT while `INIT = 0`, and by INIT while `INIT = 1` (R132): behaviour the spec calls
  "unspecified/undefined". `w` is the command word. Safe: nothing is claimed about what the hardware does. -/
  | preconditionViolation (w : Word)
  deriving DecidableEq, Repr

/-- Why a step has no meaning. -/
inductive Refusal where
  /-- Raised by no arm of `exec`: every operation of the table has its meaning. Safe. -/
  | notModelled (mnemonic : String)
  deriving DecidableEq, Repr

/-- What a step answers. -/
abbrev Out := Host.Outcome State Fault Refusal

/-- The state after hardware reset: the column "after hardware reset" of R38 (R147, D27); where that column says
"unspecified", the value log 1 names (DESIGN CHOICE; memory: log 2). -/
def State.reset : State where
  initialised := false
  run := false
  armed := false
  cycRun := false
  row := 0
  bp := 0
  bri := 0
  col := 0
  pol := 0
  cc := 1
  pub := .s0
  pend := .s0
  inuse := .s0
  dwellCnt := 0
  cycCnt := 0
  d1 := 0
  d2 := 0
  clk := false
  lat := false
  oe := false
  a := 0
  buf0 := []
  buf1 := []
  buf2 := []
  stage := []
  hostOp := .idle
  copied := []
  trace := []
  sr := List.replicate Config.width ⟨0, 0⟩
  latched := List.replicate Config.width ⟨0, 0⟩
  lrow := 0
  cmds := []
  responses := []
  turns := []
  picks := []
  draws := 0

end Sys2Proof.Machine
end

