-- ==== Sys2Proof/Machine/Operands.lean ====
section
/-! DEFINITION. Every operand form (R64, R124) and the pure functions of colour (R107, R114). -/

namespace Sys2Proof.Machine

/-- `sext_16`, the operand of SETBRI and SETCOL: a mathematical integer (R56, R64). -/
def sext16 (imm : BitVec 16) : Int := imm.toInt

/-- `sext_12`, a coordinate of SETPIX and GETPIX (R59, R64). -/
def sext12 (c : BitVec 12) : Int := c.toInt

/-- `zext_16`, the timeout of WAITSYNC, which nothing reads (R56, R100). -/
def zext16 (t : BitVec 16) : Nat := t.toNat

/-- The range check of SETBRI: `0 ≤ b ≤ 63` on the signed operand (R121, R124). -/
def brightnessLegal (b : BitVec 16) : Bool := 0 ≤ sext16 b && sext16 b ≤ Config.briMax

/-- `COL_MAX = 2^CC − 1`, the largest legal colour and the auto-cycle sentinel (R7, R20). -/
def colMax (cc : BitVec 2) : Nat := 2 ^ cc.toNat - 1

/-- The range check of SETCOL: `0 ≤ v ≤ 2^CC − 1` on the signed operand (R109, R124). -/
def colourLegal (v : BitVec 16) (cc : BitVec 2) : Bool := 0 ≤ sext16 v && sext16 v ≤ colMax cc

/-- The number of cell `(y, x)` in its space, rows from the top and columns in shift order (R33). -/
def cellNumber (y x : Nat) : Nat := y * Config.width + x

/-- The cell a host coordinate pair names, if it is in range: `0 ≤ x < 128` and `0 ≤ y < 32` (R43, R59). -/
def hostCell (x y : BitVec 12) : Option Nat :=
  if 0 ≤ sext12 x ∧ sext12 x < Config.width ∧ 0 ≤ sext12 y ∧ sext12 y < Config.height then
    some (cellNumber (sext12 y).toNat (sext12 x).toNat)
  else none

/-- `Mask(v, cc) = ((v + 1) & 0b111) & (2^cc − 1)`, bit 0 R, bit 1 G, bit 2 B (R107). -/
def mask (v : BitVec 3) (cc : BitVec 2) : BitVec 3 :=
  BitVec.ofNat 3 (((v.toNat + 1) &&& 7) &&& (2 ^ cc.toNat - 1))

/-- The high end of the cycle range, `hi = 2^cc − 2` (R114). -/
def cycleHigh (cc : BitVec 2) : Nat := 2 ^ cc.toNat - 2

/-- `Next(v, cc)`, the successor in the cycle `[1, hi]` (R114). -/
def nextColour (v : BitVec 3) (cc : BitVec 2) : BitVec 3 :=
  if cycleHigh cc < 1 then v
  else if 1 ≤ v.toNat ∧ v.toNat < cycleHigh cc then v + 1
  else 1

/-- `COLOUR_INIT`, in `[0, 2^CC − 2]`, any value of that range (R7, D26; DESIGN CHOICE, log 4). -/
def colourInit (cc : BitVec 2) : BitVec 3 :=
  BitVec.ofNat 3 (Config.colourChoice cc % (2 ^ cc.toNat - 1))

/-- Bit `k` of a cell, the bit shown during bit-plane `k` (R42, R73). -/
def planeBit (v : Cell) (k : BitVec 2) : BitVec 1 := v.extractLsb' k.toNat 1

/-- The levels of one half's three data pins: `(m[i] & t) ^ p` on bit `i` (R74, R75). -/
def pinLevels (m : BitVec 3) (t p : BitVec 1) : BitVec 3 :=
  ((m.extractLsb' 2 1 &&& t) ^^^ p) ++ ((m.extractLsb' 1 1 &&& t) ^^^ p) ++ ((m.extractLsb' 0 1 &&& t) ^^^ p)

/-- The not-lit level on all three pins of a half, `pol ++ pol ++ pol` (R75, R117). -/
def notLit (p : BitVec 1) : BitVec 3 := p ++ p ++ p

end Sys2Proof.Machine
end

