-- ==== Sys2Proof/Machine/Flags.lean ====
section
/-! DEFINITION. The derived conditions: SYNCED and AT_BOUNDARY (R16), what is pending (R135, R136), the blocked host (R100,
R101), and the idle states (R146, R163). -/

namespace Sys2Proof.Machine

/-- `SYNCED = (INUSE == PUB)`, slot identity (R16, C9). -/
def State.synced (s : State) : Bool := s.inuse = s.pub

/-- `AT_BOUNDARY = (ROW == 0 and BP == 0)` (R16). -/
def State.atBoundary (s : State) : Bool := s.row = 0 && s.bp = 0

/-- `pc = BP × SCANROWS + ROW`, the scan position as one number (R17). -/
def State.pc (s : State) : Nat := s.bp.toNat * Config.scanRows + s.row.toNat

/-- The refresh interrupt is pending: `ARMED = 1` and the load is counted (R135). -/
def State.refreshPending (s : State) : Bool := s.armed && s.dwellCnt = 0

/-- The colour-cycle interrupt is pending: `CYC_RUN = 1` and the period is counted (R136). -/
def State.cyclePending (s : State) : Bool := s.cycRun && s.cycCnt = 0

/-- The interrupt source is pending. -/
def State.pending (s : State) : IrqSource → Bool
  | .refresh => s.refreshPending
  | .colourCycle => s.cyclePending

/-- The host has issued a WAITSYNC whose condition does not hold: it takes no step (R100, R101). -/
def State.hostBlocked (s : State) : Bool := s.hostOp = .waiting && !s.synced

/-- A word is at the command port and the host is not blocked (R54). -/
def State.hostReady (s : State) : Bool := !s.cmds.isEmpty && !s.hostBlocked

/-- The idle state of the refresh: stopped, with no expiry due (R146). -/
def State.refreshIdle (s : State) : Bool := !s.run && !s.armed

/-- Quiescent: no agent has an enabled step until the host issues a command (R163). -/
def State.quiescent (s : State) : Bool := s.hostOp = .idle && !s.armed && !s.cycRun

end Sys2Proof.Machine
end

