-- ==== Sys2Proof/Machine/Ops.lean ====
section
/-! DEFINITION. The named operations every meaning is written with: memory (R39 to R41), the command port (R54, R61, R65),
pins and trace (R31 to R37), timers (R28, R29), taking an interrupt and returning from it (R138, R139), and the free
choices. -/

namespace Sys2Proof.Machine

/-! ### Memory -/

/-- The value written to cell `c`, if one was since reset. -/
def Memory.lookup : Memory → Nat → Option Cell
  | [], _ => none
  | (k, v) :: m, c => if c = k then some v else Memory.lookup m c

/-- Write cell `c`, keeping the numbers strictly rising. -/
def Memory.store : Memory → Nat → Cell → Memory
  | [], c, v => [(c, v)]
  | (k, u) :: m, c, v =>
    if c < k then (c, v) :: (k, u) :: m
    else if c = k then (c, v) :: m
    else (k, u) :: Memory.store m c v

/-- Every number is above `lo` and the rest rise from it. -/
def Memory.risesFrom : Nat → Memory → Bool
  | _, [] => true
  | lo, (k, _) :: m => lo ≤ k && Memory.risesFrom (k + 1) m

/-- The canonical form: numbers strictly rising, each the number of a cell that exists. What an unlisted cell reads as is
no written value, so no entry can equal it (DESIGN CHOICE, log 2). -/
def Memory.wf (m : Memory) : Bool := Memory.risesFrom 0 m && m.all fun e => e.1 < Config.cells

/-- The cells of an address space (R39). -/
def State.cellsOf (s : State) : Space → Memory
  | .buf .s0 => s.buf0
  | .buf .s1 => s.buf1
  | .buf .s2 => s.buf2
  | .stage => s.stage

/-- Replace the cells of an address space. -/
def State.setCells (s : State) (sp : Space) (m : Memory) : State :=
  match sp with
  | .buf .s0 => { s with buf0 := m }
  | .buf .s1 => { s with buf1 := m }
  | .buf .s2 => { s with buf2 := m }
  | .stage => { s with stage := m }

/-- `MemRead((space, y, x), 4)`: the value most recently written, or the cell's unspecified initial value (R40; DESIGN
CHOICE, log 2). -/
def State.readCell (s : State) (sp : Space) (c : Nat) : Cell :=
  ((s.cellsOf sp).lookup c).getD (Config.initialCell sp c)

/-- `MemWrite((space, y, x), 4, v)`: that one cell and nothing else (R41). -/
def State.writeCell (s : State) (sp : Space) (c : Nat) (v : Cell) : State :=
  s.setCells sp ((s.cellsOf sp).store c v)

/-! ### The command port -/

/-- `respond r`: the command at the port is complete and gone, with the response word `r` (R9, R61; DESIGN CHOICE, log 8). -/
def State.respond (s : State) (r : Word) : State :=
  { s with cmds := s.cmds.tail, responses := s.responses ++ [r] }

/-- The response to a reserved word, `ERR = 1` (R61, R65). -/
def errorWord : Word := 0x80000000

/-- A reserved word is answered `ERR` and changes nothing else (R65, R133). -/
def State.reject (s : State) : State := s.respond errorWord

/-- `require INIT == 1`, else `raise PreconditionViolation(w)` (R132, R134; DEDUCED, log 22). -/
def State.whenInit (s : State) (i : Instr) (t : State) : Out :=
  if s.initialised then .next t else .fault (.preconditionViolation (commandWord i))

/-- `1` for true and `0` for false (R61). -/
def boolWord (b : Bool) : Word := if b then 1 else 0

/-! ### Pins, trace and abstract panel -/

/-- `emit e` (R9, R36). -/
def State.emit (s : State) (e : Event) : State := { s with trace := s.trace ++ [e] }

/-- `OE <- e; emit OE(e)` (R77). -/
def State.setOe (s : State) (e : Bool) : State := { s with oe := e }.emit (.oe e)

/-- `D1 <- d1; D2 <- d2; emit DATA(d1, d2)` (R77). -/
def State.driveData (s : State) (d1 d2 : BitVec 3) : State := { s with d1 := d1, d2 := d2 }.emit (.data d1 d2)

/-- `CLK pulse 0->1->0; emit CLK`: the pin is back at 0, and the panel's shift register takes the data pins (R32, R37, R77).
-/
def State.pulseClk (s : State) : State :=
  { s with clk := false, sr := (s.sr ++ [Levels.mk s.d1 s.d2]).tail }.emit .clk

/-- `A <- r; emit ADDR(r)` (R79). -/
def State.setAddr (s : State) (r : BitVec 4) : State := { s with a := r }.emit (.addr r)

/-- `LAT pulse 0->1->0; emit LAT`: the pin is back at 0, and the panel latches its line and row (R32, R37, R79). -/
def State.pulseLat (s : State) : State :=
  { s with lat := false, latched := s.sr, lrow := s.a }.emit .lat

/-! ### Timers -/

/-- `DWELL_CNT <- n; ARMED <- 1; emit ARM(n)` (R28, R84, R118). -/
def State.armDwell (s : State) (n : BitVec 6) : State := { s with dwellCnt := n, armed := true }.emit (.arm n)

/-- One dwell time unit goes by: the armed timer counts down and stops at expiry (R28, R124; DESIGN CHOICE, log 7). A timer
that is not armed holds its last count, where U13 allows any value (DESIGN CHOICE, log 26). -/
def State.countDwell (s : State) : State :=
  if s.armed && s.dwellCnt ≠ 0 then { s with dwellCnt := s.dwellCnt - 1 } else s

/-- One cycle time unit goes by: the running timer counts down to expiry (R29, R124; DESIGN CHOICE, log 7). A timer that is
not running holds its last count, where U13 allows any value (DESIGN CHOICE, log 26). -/
def State.countCycle (s : State) : State :=
  if s.cycRun && s.cycCnt ≠ 0 then { s with cycCnt := s.cycCnt - 1 } else s

/-! ### Interrupts -/

/-- Taking an interrupt (R138): no state is saved and no mode changes; the refresh interrupt clears `ARMED`, the
colour-cycle interrupt reloads `CYC_CNT`. -/
def State.takeInterrupt (s : State) : IrqSource → State
  | .refresh => { s with armed := false }
  | .colourCycle => { s with cycCnt := Config.cycPeriod }

/-- Returning from an interrupt (R139): the refresh tick re-arms the timer with the dwell it drove, or, when stopped, disables
the output and does not re-arm (R89); the colour tick just ends. -/
def State.returnFromInterrupt (s : State) (dwell : BitVec 6) : IrqSource → State
  | .refresh => if s.run then s.armDwell dwell else s.setOe false
  | .colourCycle => s

/-! ### The scan position -/

/-- Step 3 of the tick at pass `(r, k)`: the successor of the scan position, and adoption at the full-frame boundary
(R87, R88). -/
def State.advanceScan (s : State) (r : BitVec 4) (k : BitVec 2) : State :=
  if r.toNat + 1 = Config.scanRows then
    if k.toNat + 1 = Config.bitDepth then { s with bp := 0, row := 0, inuse := s.pub }
    else { s with bp := k + 1, row := 0 }
  else { s with bp := k, row := r + 1 }

/-! ### Free choices (the model's own fields) -/

/-- The number that picks the next cell a SETFRAME copies (R97, U6; DESIGN CHOICE, log 9). -/
def State.pick (s : State) : Nat :=
  match s.picks with
  | p :: _ => p
  | [] => Config.copyPick s.draws

/-- The pick is used up. -/
def State.tookPick (s : State) : State :=
  match s.picks with
  | _ :: ps => { s with picks := ps }
  | [] => { s with draws := s.draws + 1 }

/-- The cells a SETFRAME in progress has not copied yet, a `(y, x)` "not in COPIED" (R96). -/
def uncopied (copied : List Nat) : List Nat := (List.range Config.cells).filter fun c => !copied.contains c

/-- Put a cell number into the set `COPIED`, numbers rising. -/
def addCopied : List Nat → Nat → List Nat
  | [], c => [c]
  | k :: l, c => if c < k then c :: k :: l else if c = k then k :: l else k :: addCopied l c

end Sys2Proof.Machine
end

