-- ==== Sys2Proof/Machine/Agents.lean ====
section
/-! DEFINITION. Who takes the next step (R47, R128, R129, R137), what the command port holds (R54), and how a word or an
event is placed so that the next step runs it. A pending interrupt goes first, refresh before colour (R137); otherwise the
host, or time by one unit of a running timer, in an order the spec leaves open but for fairness (R159, R162; DESIGN CHOICE,
logs 6 and 7). -/

namespace Sys2Proof.Machine

/-- Who takes a step. -/
inductive Turn where
  /-- A pending interrupt is taken and its handler runs whole. -/
  | interrupt (src : IrqSource)
  /-- The host takes a step of its command. -/
  | host
  /-- One dwell time unit goes by. -/
  | dwellUnit
  /-- One cycle time unit goes by. -/
  | cycUnit
  /-- No agent has an enabled step (R146, R163; DESIGN CHOICE, log 12). -/
  | idle
  deriving DecidableEq, Repr

/-- The turn of a mover. -/
def turnOf : Mover → Turn
  | .host => .host
  | .dwellUnit => .dwellUnit
  | .cycUnit => .cycUnit

/-- Who is able to move when no interrupt is pending: the host with a command it is not blocked on (R54, R101), and each
running timer (R28, R29). -/
def State.movers (s : State) : List Mover :=
  (if s.hostReady then [Mover.host] else []) ++ (if s.armed then [Mover.dwellUnit] else []) ++
    (if s.cycRun then [Mover.cycUnit] else [])

/-- The moves drawn for the n-th time: any number of any moves, among which every mover is named (R162, fairness; DESIGN
CHOICE, log 6). -/
def fairTurns (n : Nat) : List Mover :=
  [Mover.host, .dwellUnit, .cycUnit].flatMap fun m => Config.turnsBefore n m ++ [m]

/-- The free order of the next contested moves: the list in the state, or, once that is used up, the moves drawn next. -/
def State.upcoming (s : State) : List Mover :=
  match s.turns with
  | [] => fairTurns s.draws
  | m :: ms => m :: ms

/-- The free choice of the next mover (DESIGN CHOICE, log 6). -/
def State.choice (s : State) : Mover := s.upcoming.headD .host

/-- The choice is used up. -/
def State.tookChoice (s : State) : State :=
  { s with turns := s.upcoming.tail, draws := if s.turns.isEmpty then s.draws + 1 else s.draws }

/-- The mover among those able: the only one, or the one the free choice names (the first, where it names none of them). -/
def State.chooseMover (s : State) : List Mover → Turn
  | [] => .idle
  | [m] => turnOf m
  | m :: n :: ms => turnOf (if s.choice ∈ m :: n :: ms then s.choice else m)

/-- Who takes the next step (R137). -/
def State.turn (s : State) : Turn :=
  if s.refreshPending then .interrupt .refresh
  else if s.cyclePending then .interrupt .colourCycle
  else s.chooseMover s.movers

/-- No interrupt is pending and more than one could move, so the free choice decides. -/
def State.contested (s : State) : Bool :=
  !s.refreshPending && !s.cyclePending && (2 ≤ s.movers.length)

/-- The state the mover finds: the free choice, if it was needed, is used up. -/
def State.settled (s : State) : State := if s.contested then s.tookChoice else s

/-- What the decoder reads at the command port, if a word is there (R54, R63). -/
def State.atPort (s : State) : Option (Except Reject Instr) := s.cmds.head?.map decodeWord

/-! ### Placing the next instruction (DESIGN CHOICE, log 13) -/

/-- Put off a pending refresh interrupt by one dwell time unit. -/
def State.deferRefresh (s : State) : State := if s.refreshPending then { s with dwellCnt := 1 } else s

/-- Put off a pending colour-cycle interrupt by one cycle time unit. -/
def State.deferCycle (s : State) : State := if s.cyclePending then { s with cycCnt := 1 } else s

/-- Name the host as the next mover where a running timer could move as well. -/
def State.hostNext (s : State) : State :=
  if s.armed || s.cycRun then { s with turns := .host :: s.turns } else s

/-- The word stands at the command port, no other command is in flight, and the host moves next. -/
def State.placeCommand (s : State) (w : Word) : State :=
  { s with cmds := w :: s.cmds.tail, hostOp := .idle, copied := [] }.deferRefresh.deferCycle.hostNext

/-- The interrupt source is pending, and no higher one is. -/
def State.placeIrq (s : State) (source : BitVec 1) : State :=
  if source = 0 then { s with armed := true, dwellCnt := 0 }
  else { s with cycRun := true, cycCnt := 0 }.deferRefresh

end Sys2Proof.Machine
end

