-- ==== Sys2Proof/Machine/Colour.lean ====
section
/-! DEFINITION. The colour plane selector: SETCOL and GETCOL (R109 to R112). -/

namespace Sys2Proof.Machine

/-- Store a legal colour: the sentinel starts the cycler with a full period, any other value stops it (R109). -/
def State.storeColour (s : State) (v : BitVec 16) : State :=
  if sext16 v = colMax s.cc then { s with col := v.setWidth 3, cycRun := true, cycCnt := Config.cycPeriod }
  else { s with cycRun := false, col := v.setWidth 3 }

/-- `SETCOL v` (R109): a range violation is a result, not a fault, and writes nothing (R131). -/
def execSetcol (v : BitVec 16) (s : State) : Out :=
  s.whenInit (.setcol v)
    (if colourLegal v s.cc then (s.storeColour v).respond (boolWord true) else s.respond (boolWord false))

/-- `GETCOL` (R112). -/
def execGetcol (s : State) : Out :=
  s.whenInit .getcol (s.respond (s.col.setWidth 32))

end Sys2Proof.Machine
end

