-- ==== Sys2Proof/Machine/Control.lean ====
section
/-! DEFINITION. The control commands: INIT, START, STOP, SETBRI, GETBRI, SETVAR (R117 to R123). -/

namespace Sys2Proof.Machine

/-- What INIT establishes: the column "after INIT" of R38 (R117). The memories and the abstract panel keep
their content, and so do the counters, which are not counting (DESIGN CHOICE, log 26). -/
def State.initialise (s : State) (cc : BitVec 2) (pol : BitVec 1) : State :=
  { s with
    cc := cc, pol := pol
    bp := 0, row := 0
    run := false, armed := false, cycRun := false
    bri := Config.brightnessInit, col := colourInit cc
    pub := .s0, pend := .s1, inuse := .s2
    oe := false, clk := false, lat := false, a := 0
    d1 := notLit pol, d2 := notLit pol
    hostOp := .idle, copied := [], trace := []
    initialised := true }

/-- `INIT cc, pol` (R117): a reserved word with `cc = 0` (R65; DEDUCED, log 15); a precondition violation when `INIT = 1`
already (R132). -/
def execInit (cc : BitVec 2) (pol : BitVec 1) (s : State) : Out :=
  if cc = 0 then .next s.reject
  else if s.initialised then .fault (.preconditionViolation (commandWord (.init cc pol)))
  else .next ((s.initialise cc pol).respond 0)

/-- Arm the first expiry, unless one is pending already (R118). -/
def State.armIfNot (s : State) : State :=
  if s.armed then s else s.armDwell Config.startDelay

/-- `START` (R118). -/
def execStart (s : State) : Out :=
  s.whenInit .start ({ s with run := true }.armIfNot.respond 0)

/-- `STOP`: `RUN <- 0` and nothing else (R119). -/
def execStop (s : State) : Out :=
  s.whenInit .stop ({ s with run := false }.respond 0)

/-- `SETBRI b` (R121): a range violation is a result and writes nothing (R131). -/
def execSetbri (b : BitVec 16) (s : State) : Out :=
  s.whenInit (.setbri b)
    (if brightnessLegal b then { s with bri := b.setWidth 6 }.respond (boolWord true)
     else s.respond (boolWord false))

/-- `GETBRI` (R122). -/
def execGetbri (s : State) : Out :=
  s.whenInit .getbri (s.respond (s.bri.setWidth 32))

/-- `SETVAR pol` (R123): the pins are not rewritten. -/
def execSetvar (pol : BitVec 1) (s : State) : Out :=
  s.whenInit (.setvar pol) ({ s with pol := pol }.respond 0)

end Sys2Proof.Machine
end

