-- ==== Sys2Proof/Machine/Cycler.lean ====
section
/-! DEFINITION. The colour cycler's one operation, the event CTICK (R113 to R116). -/

namespace Sys2Proof.Machine

/-- `if CYC_RUN == 1: COL <- Next(COL, CC)` (R113). -/
def State.cycleColour (s : State) : State :=
  if s.cycRun then { s with col := nextColour s.col s.cc } else s

/-- `CTICK`, one atomic step: reload the period, then advance the colour (R113). It emits no pin event. -/
def execCtick (s : State) : Out :=
  .next ((s.takeInterrupt .colourCycle).cycleColour.returnFromInterrupt 0 .colourCycle)

end Sys2Proof.Machine
end

