-- ==== Sys2Proof/Machine/RowOutput.lean ====
section
/-! DEFINITION. The row output driver, `RowOutput(s, r, k, b, m, p)`: one driver, parameterised by the polarity (R71 to
R83). -/

namespace Sys2Proof.Machine

/-- The six inputs, read once when the tick begins (R71). -/
structure RowInputs where
  /-- `s`, the slot to scan. -/
  slot : Slot
  /-- `r`, the scan row. -/
  row : BitVec 4
  /-- `k`, the bit-plane. -/
  plane : BitVec 2
  /-- `b`, the brightness. -/
  bri : BitVec 6
  /-- `m`, the colour mask. -/
  mask : BitVec 3
  /-- `p`, the polarity. -/
  pol : BitVec 1
  deriving DecidableEq, Repr

/-- What a tick samples on entry (R84). -/
def State.rowInputs (s : State) : RowInputs :=
  { slot := s.inuse, row := s.row, plane := s.bp, bri := s.bri, mask := mask s.col s.cc, pol := s.pol }

/-- The pin levels of column `c`: the bit of the top row on D1, of the bottom row `row + SCANROWS` on D2 (R73 to R75). -/
def State.columnLevels (s : State) (inp : RowInputs) (c : Nat) : Levels :=
  { d1 := pinLevels inp.mask
      (planeBit (s.readCell (.buf inp.slot) (cellNumber inp.row.toNat c)) inp.plane) inp.pol
    d2 := pinLevels inp.mask
      (planeBit (s.readCell (.buf inp.slot) (cellNumber (inp.row.toNat + Config.scanRows) c)) inp.plane) inp.pol }

/-- The brightness cut at the head of iteration `c = b` (R78). -/
def State.brightnessCut (s : State) (inp : RowInputs) (c : Nat) : State :=
  if c = inp.bri.toNat then s.setOe false else s

/-- One iteration of the column loop: cut, data, clock (R77). -/
def State.shiftColumn (inp : RowInputs) (s : State) (c : Nat) : State :=
  let s := s.brightnessCut inp c
  let l := s.columnLevels inp c
  (s.driveData l.d1 l.d2).pulseClk

/-- `for c = 0 .. W-1`, column 0 first (R77, D10). -/
def State.shiftColumns (s : State) (inp : RowInputs) : State :=
  (List.range Config.width).foldl (State.shiftColumn inp) s

/-- The whole call: 128 columns, then address, latch, output enabled (R77, R79). The returned dwell is
`Config.sched inp.plane` (R80). -/
def State.rowOutput (s : State) (inp : RowInputs) : State :=
  (((s.shiftColumns inp).setAddr inp.row).pulseLat).setOe true

end Sys2Proof.Machine
end

