-- ==== Sys2Proof/Machine/Scheduler.lean ====
section
/-! DEFINITION. The refresh scheduler's one operation, the event RTICK (R84 to R94). -/

namespace Sys2Proof.Machine

/-- `RTICK`, one atomic step: take the interrupt, drive the row the tick samples on entry, advance the scan position and
adopt at the boundary, then re-arm or stop (R84). It cannot fail (R90). That it is due is the step's affair, not its own
(DESIGN CHOICE, log 14). -/
def execRtick (s : State) : Out :=
  let inp := s.rowInputs
  let t := (s.takeInterrupt .refresh).rowOutput inp
  .next ((t.advanceScan inp.row inp.plane).returnFromInterrupt (Config.sched inp.plane) .refresh)

end Sys2Proof.Machine
end

