-- ==== Sys2Proof/Machine/Sync.lean ====
section
/-! DEFINITION. The buffer synchronizer and the frame content accessors: SETFRAME, WAITSYNC, SETPIX, GETPIX (R95 to R106).
SETFRAME and WAITSYNC take more than one step: the command's word stays at the port, and each step of the host runs the
command once more until it responds (DESIGN CHOICE, logs 8, 9, 11). -/

namespace Sys2Proof.Machine

/-- A SETFRAME begins: `HOST_OP <- copying; COPIED <- {}`, unless it is in its copy phase already (R96). -/
def State.beginCopy (s : State) : State :=
  if s.hostOp = .copying then s else { s with hostOp := .copying, copied := [] }

/-- One cell copy, `stage` to `buf[PEND]`, and the cell joins `COPIED` (R97; DEDUCED, log 10 for PEND). -/
def State.copyCell (s : State) (c : Nat) : State :=
  let t := s.writeCell (.buf s.pend) c (s.readCell .stage c)
  { t with copied := addCopied s.copied c }

/-- The exchange, one atomic step: `(PUB, PEND) <- (PEND, PUB); HOST_OP <- idle; respond 0` (R96, R98). -/
def State.exchange (s : State) : State :=
  { s with pub := s.pend, pend := s.pub, hostOp := .idle }.respond 0

/-- The cell the next copy takes: "choose (y, x) not in COPIED", any of them, the free choice says which (R96, R97). -/
def State.nextCopy (s : State) : Nat :=
  (uncopied s.copied).getD (s.pick % (uncopied s.copied).length) 0

/-- The next step of a SETFRAME in its copy phase: one more cell, or the exchange when none is left (R96, R97). -/
def State.frameStep (s : State) : State :=
  if (uncopied s.copied).isEmpty then s.exchange else (s.copyCell s.nextCopy).tookPick

/-- `SETFRAME`, one of its 4097 steps (R96; DESIGN CHOICE, log 9). -/
def execSetframe (s : State) : Out :=
  s.whenInit .setframe s.beginCopy.frameStep

/-- `WAITSYNC t` (R100): responds 1 when `INUSE == PUB`, else waits; `t` is ignored. -/
def execWaitsync (t : BitVec 16) (s : State) : Out :=
  s.whenInit (.waitsync t)
    (if s.synced then { s with hostOp := .idle }.respond (boolWord true) else { s with hostOp := .waiting })

/-- `SETPIX x, y, d` (R103): out of range it is a no-op (R43). -/
def execSetpix (x y : BitVec 12) (d : Cell) (s : State) : Out :=
  s.whenInit (.setpix x y d)
    (match hostCell x y with
     | some c => (s.writeCell .stage c d).respond 0
     | none => s.respond 0)

/-- `GETPIX x, y` (R104): out of range it responds 0 (R43). -/
def execGetpix (x y : BitVec 12) (s : State) : Out :=
  s.whenInit (.getpix x y)
    (match hostCell x y with
     | some c => s.respond ((s.readCell .stage c).setWidth 32)
     | none => s.respond 0)

end Sys2Proof.Machine
end

