-- ==== Sys2Proof/Machine/Dispatch.lean ====
section
/-! DEFINITION. One arm per operation of the opcode table (R62). -/

namespace Sys2Proof.Machine

def exec (i : Instr) (s : State) : Host.Outcome State Fault Refusal :=
  match i with
  | .init cc pol => Sys2Proof.Machine.execInit cc pol s
  | .start => Sys2Proof.Machine.execStart s
  | .stop => Sys2Proof.Machine.execStop s
  | .setbri b => Sys2Proof.Machine.execSetbri b s
  | .getbri => Sys2Proof.Machine.execGetbri s
  | .setcol v => Sys2Proof.Machine.execSetcol v s
  | .getcol => Sys2Proof.Machine.execGetcol s
  | .setvar pol => Sys2Proof.Machine.execSetvar pol s
  | .setframe => Sys2Proof.Machine.execSetframe s
  | .waitsync t => Sys2Proof.Machine.execWaitsync t s
  | .setpix x y d => Sys2Proof.Machine.execSetpix x y d s
  | .getpix x y => Sys2Proof.Machine.execGetpix x y s
  | .rtick => Sys2Proof.Machine.execRtick s
  | .ctick => Sys2Proof.Machine.execCtick s

end Sys2Proof.Machine
end

