-- ==== Sys2Proof/Machine/Step.lean ====
section
/-! DEFINITION. One step of the engine: one atomic step of one agent (R47, R129), or one unit of time (DESIGN CHOICE, log
7). -/

namespace Sys2Proof.Machine

/-- A host step: the decoded command runs; a reserved word is rejected (R63, R65, R133). -/
def State.hostStep (s : State) : Host.Outcome State Fault Refusal :=
  match s.atPort with
  | none => .next s
  | some (.ok i) => exec i s
  | some (.error _) => .next s.reject

/-- One step (R129, R137). -/
def step (s : State) : Host.Outcome State Fault Refusal :=
  match s.turn with
  | .interrupt .refresh => exec .rtick s
  | .interrupt .colourCycle => exec .ctick s
  | .host => s.settled.hostStep
  | .dwellUnit => .next s.settled.countDwell
  | .cycUnit => .next s.settled.countCycle
  | .idle => .next s

/-- `s` with the instruction of these table bits where `step` finds its next one: an event pending (rows of at most one byte,
format IRQ), a command word at the port (DESIGN CHOICE, logs 13 and 23). -/
def State.withFetchWord (s : State) (nbits w : Nat) : State :=
  if nbits ≤ 8 then s.placeIrq (BitVec.ofNat 1 w) else s.placeCommand (BitVec.ofNat 32 w)

end Sys2Proof.Machine
end

