-- ==== Sys2Proof/Machine/Panel.lean ====
section
/-! DEFINITION. What the outside sees of the pins: the electrical level of OE (R32), and what the abstract panel shows
(R37). -/

namespace Sys2Proof.Machine

/-- The electrical level of pin OE: `OE_ACTIVE_LEVEL` when enabled, its complement when disabled (R32, D6). -/
def State.oePinLevel (s : State) : Bool := if s.oe then Config.oeActiveLevel else !Config.oeActiveLevel

/-- The latched levels of column `x`. -/
def State.latchedAt (s : State) (x : Nat) : Levels := s.latched.getD x ⟨0, 0⟩

/-- Is channel `i` lit at logical row `y`, column `x` of the abstract panel? Only while `OE = 1`, on the rows `LROW` and
`LROW + SCANROWS`, when the latched level exclusive-or `POL` is 1 (R37). -/
def State.shows (s : State) (y x i : Nat) : Bool :=
  s.oe && decide (x < Config.width) && decide (i < 3) &&
    ((y = s.lrow.toNat && (s.latchedAt x).d1.extractLsb' i 1 ^^^ s.pol = 1) ||
     (y = s.lrow.toNat + Config.scanRows && (s.latchedAt x).d2.extractLsb' i 1 ^^^ s.pol = 1))

end Sys2Proof.Machine
end

