-- ==== Sys2Proof/Machine/Timing.lean ====
section
/-! DEFINITION. The formulas of time (R82, R92, R155, R159 to R161). The real durations are OPEN and no step reads them
(DESIGN CHOICE, log 20). -/

namespace Sys2Proof.Machine

/-- `T_DWELL_UNIT`, any positive duration (R159). -/
def tDwellUnit : Nat := Config.dwellUnitLessOne + 1

/-- `T_CYC_UNIT`, any positive duration (R159). -/
def tCycUnit : Nat := Config.cycUnitLessOne + 1

/-- `T_SHIFT`, the duration of one tick's own work, any positive duration (R159). -/
def tShift : Nat := Config.shiftLessOne + 1

/-- From the end of a tick at bit-plane `k` to the start of the next: the load times the unit (R160). -/
def dwellTime (k : BitVec 2) : Nat := (Config.sched k).toNat * tDwellUnit

/-- From the start of a tick at bit-plane `k` to the start of the next (R160). -/
def tickInterval (k : BitVec 2) : Nat := dwellTime k + tShift

/-- The bit-planes of the 64 passes of one frame, in the order they are driven (R91). -/
def framePlanes : List (BitVec 2) :=
  List.replicate Config.scanRows 0 ++ List.replicate Config.scanRows 1 ++
    List.replicate Config.scanRows 2 ++ List.replicate Config.scanRows 3

/-- The duration of one frame (R161). -/
def frameTime : Nat := (framePlanes.map tickInterval).sum

/-- Between two colour ticks, and from a SETCOL of the sentinel to the first (R160). -/
def cycleTime : Nat := Config.cycPeriod.toNat * tCycUnit

/-- The on-time of a pass at bit-plane `k` under brightness `b`: its dwell, and the time the next tick takes to clock its
first `b` columns (R82). -/
def onTime (k : BitVec 2) (b : BitVec 6) : Nat := dwellTime k + Config.columnTime b.toNat

/-- How many dwell time units a cell of intensity `d` is lit in a frame, apart from the brightness term (R92). -/
def litUnits (d : Cell) : Nat :=
  ([0, 1, 2, 3].map fun k : BitVec 2 => (planeBit d k).toNat * (Config.sched k).toNat).sum

end Sys2Proof.Machine
end

