-- ==== Sys2Proof/Safety.lean ====
section
/-! DEFINITION. The terms the claims use: running an operation several times, what a tick shows and emits, which words are
reserved, the invariant of the engine, and what counts as a safe run of the publish protocol. Written from the rules, not from
the meanings, so that a claim compares the two. -/

namespace Sys2Proof

/-! ### Words -/

namespace Safety

/-- A row of the opcode table (R62): a word `w` selects it exactly when `w & mask == match`, together with the constraint. -/
structure TableRow where
  mnemonic : String
  mask : Word
  value : Word
  /-- The row's extra constraint: INIT's `cc ≠ 0`. -/
  channelCount : Bool
  deriving DecidableEq, Repr

/-- The twelve command rows (R62). -/
def tableRows : List TableRow :=
  [ ⟨"INIT", 0xFFFFFFF8, 0x10000000, true⟩, ⟨"START", 0xFFFFFFFF, 0x20000000, false⟩,
    ⟨"STOP", 0xFFFFFFFF, 0x30000000, false⟩, ⟨"SETBRI", 0xFFFF0000, 0x40000000, false⟩,
    ⟨"GETBRI", 0xFFFFFFFF, 0x50000000, false⟩, ⟨"SETCOL", 0xFFFF0000, 0x60000000, false⟩,
    ⟨"GETCOL", 0xFFFFFFFF, 0x70000000, false⟩, ⟨"SETVAR", 0xFFFFFFFE, 0x80000000, false⟩,
    ⟨"SETFRAME", 0xFFFFFFFF, 0x90000000, false⟩, ⟨"WAITSYNC", 0xFFFF0000, 0xA0000000, false⟩,
    ⟨"SETPIX", 0xF0000000, 0xB0000000, false⟩, ⟨"GETPIX", 0xFF000000, 0xC0000000, false⟩ ]

/-- The word selects the row (R62). -/
def TableRow.selects (r : TableRow) (w : Word) : Bool :=
  w &&& r.mask = r.value && (!r.channelCount || w &&& 3 ≠ 0)

/-- The mnemonic of an instruction (R62). -/
def mnemonic : Instr → String
  | .init _ _ => "INIT"
  | .start => "START"
  | .stop => "STOP"
  | .setbri _ => "SETBRI"
  | .getbri => "GETBRI"
  | .setcol _ => "SETCOL"
  | .getcol => "GETCOL"
  | .setvar _ => "SETVAR"
  | .setframe => "SETFRAME"
  | .waitsync _ => "WAITSYNC"
  | .setpix _ _ _ => "SETPIX"
  | .getpix _ _ => "GETPIX"
  | .rtick => "RTICK"
  | .ctick => "CTICK"

/-- The opcode of a word, `w[31:28]`, as a number (R54). -/
def opcode (w : Word) : Nat := w.toNat / 2 ^ 28

/-- Rule R65's list of the reserved words: a reserved opcode; a must-be-zero bit set, format by format (Z: 27:0, I: 27:16,
C: 27:3, V: 27:1); INIT with `cc = 0b00`; GETPIX with `d ≠ 0`. -/
def Reserved (w : Word) : Prop :=
  opcode w = 0x0 ∨ 0xD ≤ opcode w ∨
  (opcode w ∈ [0x2, 0x3, 0x5, 0x7, 0x9] ∧ w.toNat % 2 ^ 28 ≠ 0) ∨
  (opcode w ∈ [0x4, 0x6, 0xA] ∧ w.toNat / 2 ^ 16 % 2 ^ 12 ≠ 0) ∨
  (opcode w = 0x1 ∧ w.toNat / 2 ^ 3 % 2 ^ 25 ≠ 0) ∨
  (opcode w = 0x8 ∧ w.toNat / 2 % 2 ^ 27 ≠ 0) ∨
  (opcode w = 0x1 ∧ w.toNat % 4 = 0) ∨
  (opcode w = 0xC ∧ w.toNat / 2 ^ 24 % 16 ≠ 0)

/-- An operation the host issues, as against the two events (R60). -/
def isCommand : Instr → Bool
  | .rtick => false
  | .ctick => false
  | _ => true

/-- The precondition violations of R132: any command other than INIT while `INIT = 0`, and INIT while `INIT = 1`. (INIT with
`cc = 0` is no command but a reserved word, R133.) -/
def violates (i : Instr) (s : Machine.State) : Bool :=
  match i with
  | .init cc _ => cc ≠ 0 && s.initialised
  | .rtick => false
  | .ctick => false
  | _ => !s.initialised

end Safety

namespace Machine

/-! ### Runs -/

/-- Run operation `i` `n` times in a row, with no other step between, stopping at the first fault or refusal. -/
def execTimes (i : Instr) : Nat → State → Out
  | 0, s => .next s
  | n + 1, s =>
    match exec i s with
    | .next t => execTimes i n t
    | .fault f => .fault f
    | .refused r => .refused r

/-- An infinite run of the engine: there is no end of run (R163). -/
def Run (r : Nat → State) : Prop := ∀ n, step (r n) = .next (r (n + 1))

/-- `require INIT == 1`: the command faults, with its word, while `INIT = 0` (R132). -/
def NeedsInit (i : Instr) : Prop :=
  ∀ s : State, s.initialised = false → exec i s = .fault (.preconditionViolation (commandWord i))

/-- The host runs a SETCOL of a legal value next (R109). -/
def State.SetsColour (s : State) : Prop :=
  s.turn = .host ∧ ∃ v, s.atPort = some (.ok (.setcol v)) ∧ 0 ≤ v.toInt ∧ v.toInt ≤ 2 ^ s.cc.toNat - 1

/-! ### What a tick shows and emits (R73 to R82) -/

/-- Channel `i` is lit at column `x` of logical row `y` in the pass the next tick drives: the mask's bit and the cell's bit
(R74). -/
def State.lit (s : State) (y x i : Nat) : Bool :=
  (mask s.col s.cc).getLsbD i && (s.readCell (.buf s.inuse) (y * 128 + x)).getLsbD s.bp.toNat

/-- The level of channel `i` of a data pin: its lit value exclusive-or the polarity (R75). -/
def State.level (s : State) (y x i : Nat) : Bool := (s.lit y x i) ^^ (s.pol = 1)

/-- Three channel levels as a pin value, bit 0 R (R31, R69). -/
def pinsOf (l : Nat → Bool) : BitVec 3 :=
  BitVec.ofBool (l 2) ++ BitVec.ofBool (l 1) ++ BitVec.ofBool (l 0)

/-- The levels the next tick clocks for column `c`: the top row on D1, the bottom row on D2 (R73). -/
def State.tickLevels (s : State) (c : Nat) : Levels :=
  ⟨pinsOf (s.level s.row.toNat c), pinsOf (s.level (s.row.toNat + 16) c)⟩

/-- The events of one column: the cut at the head of the column whose index is the brightness, the data, the clock
(R77, R78). -/
def State.columnEvents (s : State) (c : Nat) : List Event :=
  (if c = s.bri.toNat then [.oe false] else []) ++ [.data (s.tickLevels c).d1 (s.tickLevels c).d2, .clk]

/-- The events of one call of the row output driver (R77, R79). -/
def State.rowEvents (s : State) : List Event :=
  (List.range 128).flatMap s.columnEvents ++ [.addr s.row, .lat, .oe true]

/-- The events of one tick (R84, R89). -/
def State.tickEvents (s : State) : List Event :=
  s.rowEvents ++ (if s.run then [.arm (Config.sched s.bp)] else [.oe false])

/-- The load an event armed the dwell timer with, if it is an `ARM` (R36). -/
def armLoad : Event → Option Nat
  | .arm n => some n.toNat
  | _ => none

/-- The line one tick shifts into the panel (R37). -/
def State.tickLine (s : State) : List Levels := (List.range 128).map s.tickLevels

/-! ### The invariant -/

/-- What holds between any two steps of the engine, in every state a run reaches. -/
structure State.Inv (s : State) : Prop where
  /-- Every memory has its canonical form. -/
  memories : ∀ sp, Memory.wf (s.cellsOf sp) = true
  /-- `COPIED` is a set of cells that exist (R35). -/
  copiedCells : s.copied.Pairwise (· < ·) ∧ ∀ c ∈ s.copied, c < 4096
  /-- The abstract panel's registers have one entry a column (R37). -/
  panelLines : s.sr.length = 128 ∧ s.latched.length = 128
  /-- CLK and LAT idle at 0 (R32). -/
  pulsesIdle : s.clk = false ∧ s.lat = false
  /-- CC holds a legal channel count (R22). -/
  channels : s.cc ≠ 0
  /-- COL is in `[0, 2^CC − 1]` (R20). -/
  colourRange : s.col.toNat ≤ 2 ^ s.cc.toNat - 1
  /-- `RUN = 1` implies `ARMED = 1` (R120). -/
  runArmed : s.run = true → s.armed = true
  /-- The output is disabled while the dwell timer is not armed (R163). -/
  idleDark : s.armed = false → s.oe = false
  /-- Before INIT nothing runs (R147). -/
  beforeInit : s.initialised = false → s.run = false ∧ s.armed = false ∧ s.cycRun = false ∧ s.hostOp = .idle
  /-- `PUB ≠ PEND` and `{PUB, PEND} = {0, 1}` after INIT (R25 a, b). -/
  roles : s.initialised = true → s.pub ≠ s.pend ∧ s.pub ≠ .s2 ∧ s.pend ≠ .s2
  /-- The sentinel is in COL only while the cycler runs (D26, R108). -/
  sentinel : s.initialised = true → s.col.toNat = 2 ^ s.cc.toNat - 1 → s.cycRun = true
  /-- The cycler never stands at value 0 (R114). -/
  cycling : s.cycRun = true → s.col ≠ 0
  /-- A copy in progress belongs to the SETFRAME at the port (R35, R54). -/
  copying : s.hostOp = .copying → s.atPort = some (.ok .setframe)
  /-- A wait in progress belongs to a WAITSYNC at the port (R35, R54). -/
  waiting : s.hostOp = .waiting → ∃ t, s.atPort = some (.ok (.waitsync t))

/-! ### The publish protocol -/

/-- While a SETFRAME copies, every cell it has copied holds what the staging frame holds (R97). -/
def State.CopyAgrees (s : State) : Prop :=
  s.hostOp = .copying → ∀ c ∈ s.copied, s.readCell (.buf s.pend) c = s.readCell .stage c

/-- Slot `k` holds the complete content of the staging frame (R48, R99 a). -/
def State.HoldsStage (s : State) (k : Slot) : Prop := ∀ c < 4096, s.readCell (.buf k) c = s.readCell .stage c

/-- The safe condition of the protocol: the slot a SETFRAME writes is not the slot being scanned, and no adoption can make it
so before the exchange (R106, R150). -/
def State.TearFree (s : State) : Prop := s.pend ≠ s.inuse ∧ s.pub ≠ s.pend

/-- The host waits for an adoption that cannot occur (R101). -/
def State.Hung (s : State) : Prop :=
  s.initialised = true ∧ s.hostOp = .waiting ∧ s.inuse ≠ s.pub ∧ s.run = false ∧ s.armed = false

/-- Two states that differ in the frame store alone. -/
def State.SameButFrames (s t : State) : Prop :=
  t = { s with buf0 := t.buf0, buf1 := t.buf1, buf2 := t.buf2 }

end Machine

end Sys2Proof
end

