-- ==== Sys2Proof/Certificates/Slice0/Obligations.lean ====
section
/-! DEFINITION. The statements for the provers. Each docstring says which rule of spec/ it formalises. `t = { s with … }`
states a result and its frame at once: every field not named is unchanged. Such a frame also holds the counter of a timer that
is not counting, which no rule writes and U13 lets be any value (DESIGN CHOICE, log 26). -/

open Sys2Proof Sys2Proof.Machine

/-! ### Steps and agents -/

/-- R47, R129, R65: what each turn does. The host's turn runs the decoded instruction, or rejects the word; an interrupt's
turn runs its handler (a time unit's turn is TimerUnitCountsDown). Settling the free choice touches the model's own fields
alone (DESIGN CHOICE, log 6). The idle step, which answers the same state when nobody can move, is the model's choice too
(DESIGN CHOICE, log 12): the spec has no step there. -/
def Obligations.StepRunsDecodedInstruction : Prop :=
  ∀ s : State,
    (∃ ts n, s.settled = { s with turns := ts, draws := n }) ∧
    (∀ i, s.turn = .host → s.atPort = some (.ok i) → step s = exec i s.settled) ∧
    (∀ e, s.turn = .host → s.atPort = some (.error e) →
      step s = .next { s.settled with cmds := s.cmds.tail, responses := s.responses ++ [0x80000000] }) ∧
    (s.turn = .interrupt .refresh → step s = exec .rtick s) ∧
    (s.turn = .interrupt .colourCycle → step s = exec .ctick s) ∧
    (s.turn = .idle → step s = .next s)

/-- R135, R136, R137, R101: the refresh interrupt is taken exactly when it is pending; the colour-cycle interrupt exactly when
it is pending and the refresh interrupt is not; the host moves only when neither is, with a word at its port and no unmet
wait. That a pending interrupt is taken before any host step is the model's choice (DESIGN CHOICE, log 6): R137 makes the
priority a constraint on simultaneity only and admits either order. So is the idle step, when nobody can move (DESIGN CHOICE,
log 12). -/
def Obligations.PriorityOfPendingInterrupts : Prop :=
  ∀ s : State,
    (s.turn = .interrupt .refresh ↔ s.armed = true ∧ s.dwellCnt = 0) ∧
    (s.turn = .interrupt .colourCycle ↔
      ¬(s.armed = true ∧ s.dwellCnt = 0) ∧ s.cycRun = true ∧ s.cycCnt = 0) ∧
    (s.turn = .host →
      ¬(s.armed = true ∧ s.dwellCnt = 0) ∧ ¬(s.cycRun = true ∧ s.cycCnt = 0) ∧ s.cmds ≠ [] ∧
        ¬(s.hostOp = .waiting ∧ s.inuse ≠ s.pub)) ∧
    (s.turn = .idle →
      s.armed = false ∧ s.cycRun = false ∧ (s.cmds = [] ∨ s.hostOp = .waiting ∧ s.inuse ≠ s.pub))

/-- R159, R162: when no interrupt is pending, the free choice can name any agent that is able to move (DESIGN CHOICE, log
6). -/
def Obligations.AnyAbleMoverMayMove : Prop :=
  ∀ (s : State) (m : Mover), s.refreshPending = false → s.cyclePending = false → m ∈ s.movers →
    { s with turns := m :: s.turns }.turn = turnOf m

/-- R28, R29, R124: an armed timer counts down by one in its unit's turn and does not wrap; nothing else changes but the
model's own choice fields. -/
def Obligations.TimerUnitCountsDown : Prop :=
  ∀ s : State,
    (s.turn = .dwellUnit → ∃ t, step s = .next t ∧ t.dwellCnt.toNat + 1 = s.dwellCnt.toNat ∧
      t = { s with dwellCnt := t.dwellCnt, turns := t.turns, draws := t.draws }) ∧
    (s.turn = .cycUnit → ∃ t, step s = .next t ∧ t.cycCnt.toNat + 1 = s.cycCnt.toNat ∧
      t = { s with cycCnt := t.cycCnt, turns := t.turns, draws := t.draws })

/-- The model's own device (DESIGN CHOICE, log 13): an instruction placed for the next step is the one the next step runs. -/
def Obligations.PlacedInstructionRunsNext : Prop :=
  ∀ s : State,
    (∀ (w : Word) (i : Instr), decodeWord w = .ok i →
      step (s.withFetchWord 32 w.toNat) = exec i (s.withFetchWord 32 w.toNat).settled) ∧
    step (s.withFetchWord 8 0) = exec .rtick (s.withFetchWord 8 0) ∧
    step (s.withFetchWord 8 1) = exec .ctick (s.withFetchWord 8 1)

/-! ### Encoding -/

/-- R54 to R64: decoding the code of a well-formed instruction gives it back, whatever its operands. -/
def Obligations.DecodeOfEncodeIsIdentity : Prop :=
  ∀ i : Instr, i.wellFormed = true → decode (encode i) = .ok i

/-- R63: a code decodes to a well-formed instruction only, and that instruction encodes to that code: no two words have one
meaning. -/
def Obligations.EncodeOfDecodeIsIdentity : Prop :=
  ∀ (c : Code) (i : Instr), decode c = .ok i → i.wellFormed = true ∧ encode i = c

/-- R55 to R60: words written out field by field from the formats decode to the instructions they stand for. -/
def Obligations.WordsOfTheFormatsDecode : Prop :=
  decodeWord 0b0001_0000000000000000000000000_1_11 = .ok (.init 3 1) ∧
  decodeWord 0b0010_0000000000000000000000000000 = .ok .start ∧
  decodeWord 0b0100_000000000000_1111111111111111 = .ok (.setbri 0xFFFF) ∧
  decodeWord 0b0110_000000000000_0000000000000111 = .ok (.setcol 7) ∧
  decodeWord 0b1000_000000000000000000000000000_1 = .ok (.setvar 1) ∧
  decodeWord 0b1001_0000000000000000000000000000 = .ok .setframe ∧
  decodeWord 0b1010_000000000000_1111111111111111 = .ok (.waitsync 65535) ∧
  decodeWord 0b1011_1010_000000000010_000000000011 = .ok (.setpix 3 2 10) ∧
  decodeWord 0b1100_0000_111111111111_111111111111 = .ok (.getpix 0xFFF 0xFFF) ∧
  decode (.irq 0) = .ok .rtick ∧ decode (.irq 1) = .ok .ctick

/-- R65, R133: the decoder rejects exactly the reserved words, and a host step on one responds `0x80000000` and changes
nothing else, in every state. -/
def Obligations.ReservedWordsAreRejected : Prop :=
  (∀ w : Word, (∃ e, decodeWord w = .error e) ↔ Safety.Reserved w) ∧
  ∀ (s : State) (w : Word) (ws : List Word), Safety.Reserved w → s.turn = .host → s.cmds = w :: ws →
    step s = .next { s.settled with cmds := ws, responses := s.responses ++ [0x80000000] }

/-- R62, R63: a word either matches exactly one row of the table, the row of the instruction it decodes to, or it is reserved
and matches none. -/
def Obligations.EveryWordMatchesOneRowOrIsReserved : Prop :=
  ∀ w : Word,
    (∃ i, decodeWord w = .ok i ∧
      (Safety.tableRows.filter fun r => r.selects w).map (·.mnemonic) = [Safety.mnemonic i]) ∨
    (Safety.Reserved w ∧ Safety.tableRows.filter (fun r => r.selects w) = [])

/-! ### Reset and preconditions -/

/-- R147: hardware reset leaves the engine not initialised, stopped, both interrupt sources quiescent, the output disabled,
the other pins at 0, the host interface idle; and only the host can take a step. -/
def Obligations.ResetState : Prop :=
  State.reset.initialised = false ∧ State.reset.run = false ∧ State.reset.armed = false ∧
  State.reset.cycRun = false ∧ State.reset.oe = false ∧ State.reset.clk = false ∧ State.reset.lat = false ∧
  State.reset.a = 0 ∧ State.reset.d1 = 0 ∧ State.reset.d2 = 0 ∧ State.reset.hostOp = .idle ∧
  ∀ w ws, { State.reset with cmds := w :: ws }.turn = .host ∧ State.reset.turn = .idle

/-- R132, R134: an operation faults exactly when its precondition is violated (a command other than INIT while `INIT = 0`,
INIT while `INIT = 1`), with the command word; there is no other fault and no refusal. -/
def Obligations.OnlyPreconditionViolationsStop : Prop :=
  (∀ (i : Instr) (s : State) (f : Fault),
    exec i s = .fault f ↔ Safety.violates i s = true ∧ f = .preconditionViolation (commandWord i)) ∧
  (∀ (i : Instr) (s : State) (r : Refusal), exec i s ≠ .refused r) ∧
  ∀ (s : State) (f : Fault), step s = .fault f ↔
    s.turn = .host ∧ ∃ i, s.atPort = some (.ok i) ∧ Safety.violates i s = true ∧
      f = .preconditionViolation (commandWord i)

/-! ### Control commands -/

/-- R117: `INIT cc, pol`, word `0x10000000 | pol << 2 | cc`. On an engine not initialised it establishes the column "after
INIT" of R38 and responds 0; a second INIT is a precondition violation. BRIGHTNESS_INIT and COLOUR_INIT are OPEN (DESIGN
CHOICE, log 4). That DWELL_CNT and CYC_CNT are held is the model's choice (DESIGN CHOICE, log 26): R38 calls both unspecified
after INIT. -/
def Obligations.InitEstablishesTheState : Prop :=
  ∀ (s : State) (cc : BitVec 2) (pol : BitVec 1), cc ≠ 0 →
    (commandWord (.init cc pol)).toNat = 0x10000000 + pol.toNat * 4 + cc.toNat ∧
    (s.initialised = false →
      exec (.init cc pol) s = .next { s with
        cc := cc, pol := pol, bp := 0, row := 0
        run := false, armed := false, cycRun := false
        bri := Config.brightnessInit, col := colourInit cc
        pub := .s0, pend := .s1, inuse := .s2
        oe := false, clk := false, lat := false, a := 0
        d1 := pol ++ pol ++ pol, d2 := pol ++ pol ++ pol
        hostOp := .idle, copied := [], trace := [], initialised := true
        cmds := s.cmds.tail, responses := s.responses ++ [0] }) ∧
    (s.initialised = true →
      exec (.init cc pol) s = .fault (.preconditionViolation (commandWord (.init cc pol))))

/-- R7, D26 (DESIGN CHOICE, log 4): COLOUR_INIT is in `[0, 2^CC − 2]`, never the sentinel. -/
def Obligations.InitialColourIsInRange : Prop :=
  ∀ cc : BitVec 2, cc ≠ 0 → (colourInit cc).toNat ≤ 2 ^ cc.toNat - 2

/-- R118: `START`, word `0x20000000`: `RUN <- 1`; a timer not armed is loaded with START_DELAY, armed and recorded; an armed
one stays as it is; responds 0. -/
def Obligations.StartArmsTheFirstExpiry : Prop :=
  commandWord .start = 0x20000000 ∧ NeedsInit .start ∧
  ∀ s : State, s.initialised = true →
    (s.armed = false → exec .start s = .next { s with
      run := true, dwellCnt := Config.startDelay, armed := true, trace := s.trace ++ [.arm Config.startDelay]
      cmds := s.cmds.tail, responses := s.responses ++ [0] }) ∧
    (s.armed = true → exec .start s = .next { s with
      run := true, cmds := s.cmds.tail, responses := s.responses ++ [0] })

/-- R119: `STOP`, word `0x30000000`: `RUN <- 0` and nothing else; responds 0. -/
def Obligations.StopClearsRunOnly : Prop :=
  commandWord .stop = 0x30000000 ∧ NeedsInit .stop ∧
  ∀ s : State, s.initialised = true →
    exec .stop s = .next { s with run := false, cmds := s.cmds.tail, responses := s.responses ++ [0] }

/-- R121: `SETBRI b`, word `0x40000000 | imm16`, `b = sext_16`: for `b` in `[0, 63]` it succeeds and BRI holds `b`; otherwise
it fails and BRI is retained; right after a success GETBRI responds `b`. -/
def Obligations.SetBrightnessChecksItsRange : Prop :=
  (∀ b, NeedsInit (.setbri b)) ∧
  ∀ (s : State) (b : BitVec 16), s.initialised = true →
    (commandWord (.setbri b)).toNat = 0x40000000 + b.toNat ∧
    (0 ≤ b.toInt ∧ b.toInt ≤ 63 → ∃ t, exec (.setbri b) s = .next t ∧ (t.bri.toNat : Int) = b.toInt ∧
      t = { s with bri := t.bri, cmds := s.cmds.tail, responses := s.responses ++ [1] } ∧
      ∃ r : Word, (r.toNat : Int) = b.toInt ∧
        exec .getbri t = .next { t with cmds := t.cmds.tail, responses := t.responses ++ [r] }) ∧
    (b.toInt < 0 ∨ 63 < b.toInt →
      exec (.setbri b) s = .next { s with cmds := s.cmds.tail, responses := s.responses ++ [0] })

/-- R122: `GETBRI`, word `0x50000000`: responds BRI zero-extended, writes nothing; after INIT it responds BRIGHTNESS_INIT, and
no step but a successful SETBRI changes BRI from then on. -/
def Obligations.GetBrightnessReads : Prop :=
  commandWord .getbri = 0x50000000 ∧ NeedsInit .getbri ∧
  (∀ s : State, s.initialised = true → ∃ r : Word, r.toNat = s.bri.toNat ∧
    exec .getbri s = .next { s with cmds := s.cmds.tail, responses := s.responses ++ [r] }) ∧
  (∀ (s t : State) (cc : BitVec 2) (pol : BitVec 1), cc ≠ 0 → exec (.init cc pol) s = .next t →
    ∃ r : Word, r.toNat = Config.brightnessInit.toNat ∧
      exec .getbri t = .next { t with cmds := t.cmds.tail, responses := t.responses ++ [r] }) ∧
  ∀ s t : State, step s = .next t → s.initialised = true → t.bri ≠ s.bri →
    s.turn = .host ∧ ∃ b, s.atPort = some (.ok (.setbri b)) ∧ 0 ≤ b.toInt ∧ b.toInt ≤ 63

/-- R123: `SETVAR pol`, word `0x80000000 | pol`: `POL <- pol`, the pins are not rewritten; responds 0. -/
def Obligations.SetVariantStoresPolarity : Prop :=
  (∀ pol, NeedsInit (.setvar pol)) ∧
  ∀ (s : State) (pol : BitVec 1), s.initialised = true →
    (commandWord (.setvar pol)).toNat = 0x80000000 + pol.toNat ∧
    exec (.setvar pol) s = .next { s with pol := pol, cmds := s.cmds.tail, responses := s.responses ++ [0] }

/-! ### Colour -/

/-- R109: `SETCOL v`, word `0x60000000 | imm16`, `v = sext_16`: the sentinel `2^CC − 1` is stored and starts the cycler with a
full period; another legal value is stored and stops it; an illegal one writes nothing and responds 0. -/
def Obligations.SetColourChecksItsRange : Prop :=
  (∀ v, NeedsInit (.setcol v)) ∧
  ∀ (s : State) (v : BitVec 16), s.initialised = true →
    (commandWord (.setcol v)).toNat = 0x60000000 + v.toNat ∧
    (v.toInt = 2 ^ s.cc.toNat - 1 → ∃ t, exec (.setcol v) s = .next t ∧ (t.col.toNat : Int) = v.toInt ∧
      t = { s with col := t.col, cycRun := true, cycCnt := 60, cmds := s.cmds.tail, responses := s.responses ++ [1] }) ∧
    (0 ≤ v.toInt ∧ v.toInt < 2 ^ s.cc.toNat - 1 → ∃ t, exec (.setcol v) s = .next t ∧ (t.col.toNat : Int) = v.toInt ∧
      t = { s with col := t.col, cycRun := false, cmds := s.cmds.tail, responses := s.responses ++ [1] }) ∧
    (v.toInt < 0 ∨ 2 ^ s.cc.toNat - 1 < v.toInt →
      exec (.setcol v) s = .next { s with cmds := s.cmds.tail, responses := s.responses ++ [0] })

/-- R112: `GETCOL`, word `0x70000000`: responds COL zero-extended, writes nothing; right after a successful `SETCOL v` it
responds `v`. -/
def Obligations.GetColourReads : Prop :=
  commandWord .getcol = 0x70000000 ∧ NeedsInit .getcol ∧
  (∀ s : State, s.initialised = true → ∃ r : Word, r.toNat = s.col.toNat ∧
    exec .getcol s = .next { s with cmds := s.cmds.tail, responses := s.responses ++ [r] }) ∧
  ∀ (s t : State) (v : BitVec 16), 0 ≤ v.toInt → v.toInt ≤ 2 ^ s.cc.toNat - 1 → exec (.setcol v) s = .next t →
    ∃ r : Word, (r.toNat : Int) = v.toInt ∧
      exec .getcol t = .next { t with cmds := t.cmds.tail, responses := t.responses ++ [r] }

/-- R107, R108: the mask is the low three bits of `v + 1` cut to the profile's channels; the only legal value whose mask is
empty is the sentinel; the value 0 drives channel R. -/
def Obligations.MaskOfEveryColour : Prop :=
  ∀ (v : BitVec 3) (cc : BitVec 2), cc ≠ 0 →
    (∀ i, i < 3 → (mask v cc).getLsbD i = ((v.toNat + 1).testBit i && decide (i < cc.toNat))) ∧
    (v.toNat ≤ 2 ^ cc.toNat - 1 → (mask v cc = 0 ↔ v.toNat = 2 ^ cc.toNat - 1)) ∧
    mask 0 cc = 1

/-- R113, R114: `CTICK` reloads the period and, while the cycler runs, moves COL to the next value of `[1, 2^CC − 2]`: one up
inside the range, else to 1, and nowhere when the range is empty. It always completes and changes nothing else. It is taken
only when the cycler runs and its period is counted, the host cannot issue it, and no step leaves the cycler running at the
value 0. -/
def Obligations.ColourTickAdvances : Prop :=
  (∀ w, decodeWord w ≠ .ok .ctick) ∧
  (∀ s : State, s.turn = .interrupt .colourCycle → s.cycRun = true ∧ s.cycCnt = 0) ∧
  (∀ s t : State, s.cc ≠ 0 → (s.cycRun = true → s.col ≠ 0) → step s = .next t → t.cycRun = true → t.col ≠ 0) ∧
  ∀ s : State, ∃ t, exec .ctick s = .next t ∧ t = { s with cycCnt := 60, col := t.col } ∧
    (s.cycRun = false → t.col = s.col) ∧
    (s.cycRun = true →
      (2 ^ s.cc.toNat - 2 < 1 → t.col = s.col) ∧
      (1 ≤ 2 ^ s.cc.toNat - 2 →
        t.col.toNat = if 1 ≤ s.col.toNat ∧ s.col.toNat < 2 ^ s.cc.toNat - 2 then s.col.toNat + 1 else 1))

/-- R111, R116: after INIT, only a SETCOL of a legal value starts or stops the cycler; the colour has two writers, such a
SETCOL and, while the cycler runs, the colour tick; so a colour set by hand stays until the next such SETCOL. -/
def Obligations.ManualColourIsKept : Prop :=
  ∀ s t : State, step s = .next t → s.initialised = true →
    (t.cycRun ≠ s.cycRun → s.SetsColour) ∧
    (t.col ≠ s.col → s.SetsColour ∨ (s.turn = .interrupt .colourCycle ∧ s.cycRun = true))

/-! ### Frame content -/

/-- R103: `SETPIX x, y, d`, word `0xB0000000 | d << 24 | y12 << 12 | x12`: in range it writes that one cell of `stage`; out of
range it writes nothing; it responds 0 and changes nothing else. -/
def Obligations.SetPixelWritesOneCell : Prop :=
  (∀ x y d, NeedsInit (.setpix x y d)) ∧
  ∀ (s : State) (x y : BitVec 12) (d : Cell), s.initialised = true →
    (commandWord (.setpix x y d)).toNat = 0xB0000000 + d.toNat * 2 ^ 24 + y.toNat * 2 ^ 12 + x.toNat ∧
    ∃ t, exec (.setpix x y d) s = .next t ∧
      t = { s with stage := t.stage, cmds := s.cmds.tail, responses := s.responses ++ [0] } ∧
      (0 ≤ x.toInt ∧ x.toInt < 128 ∧ 0 ≤ y.toInt ∧ y.toInt < 32 →
        t.readCell .stage (y.toInt.toNat * 128 + x.toInt.toNat) = d ∧
        ∀ sp c, sp ≠ .stage ∨ c ≠ y.toInt.toNat * 128 + x.toInt.toNat → t.readCell sp c = s.readCell sp c) ∧
      (¬(0 ≤ x.toInt ∧ x.toInt < 128 ∧ 0 ≤ y.toInt ∧ y.toInt < 32) → ∀ sp c, t.readCell sp c = s.readCell sp c)

/-- R104: `GETPIX x, y`, word `0xC0000000 | y12 << 12 | x12`: in range it responds that cell of `stage`, out of range 0; it
writes no state. -/
def Obligations.GetPixelReadsOneCell : Prop :=
  (∀ x y, NeedsInit (.getpix x y)) ∧
  ∀ (s : State) (x y : BitVec 12), s.initialised = true →
    (commandWord (.getpix x y)).toNat = 0xC0000000 + y.toNat * 2 ^ 12 + x.toNat ∧
    ∃ r : Word, exec (.getpix x y) s = .next { s with cmds := s.cmds.tail, responses := s.responses ++ [r] } ∧
      r.toNat =
        if 0 ≤ x.toInt ∧ x.toInt < 128 ∧ 0 ≤ y.toInt ∧ y.toInt < 32 then
          (s.readCell .stage (y.toInt.toNat * 128 + x.toInt.toNat)).toNat
        else 0

/-- R105: after `SETPIX x, y, d` in range, `GETPIX x, y` responds `d` in every state in which that one cell is as the SETPIX
left it, and no step but a SETPIX to the same coordinates changes it; in-range coordinate pairs, and no others, name cells,
and different pairs different cells; out of range SETPIX changes no cell and GETPIX responds 0. -/
def Obligations.PixelRoundTrip : Prop :=
  (∀ (s t : State) (x y : BitVec 12) (d : Cell) (c : Nat), hostCell x y = some c → exec (.setpix x y d) s = .next t →
    ∀ u : State, u.initialised = true → u.readCell .stage c = t.readCell .stage c →
      ∃ r : Word, r.toNat = d.toNat ∧
        exec (.getpix x y) u = .next { u with cmds := u.cmds.tail, responses := u.responses ++ [r] }) ∧
  (∀ (u v : State) (x y : BitVec 12) (c : Nat), step u = .next v → hostCell x y = some c →
    v.readCell .stage c ≠ u.readCell .stage c → ∃ d, u.atPort = some (.ok (.setpix x y d))) ∧
  (∀ (x y x' y' : BitVec 12) (c : Nat), hostCell x y = some c → hostCell x' y' = some c → x = x' ∧ y = y') ∧
  (∀ x y : BitVec 12, (hostCell x y).isSome = true ↔ 0 ≤ x.toInt ∧ x.toInt < 128 ∧ 0 ≤ y.toInt ∧ y.toInt < 32) ∧
  ∀ (s : State) (x y : BitVec 12) (d : Cell), s.initialised = true → hostCell x y = none →
    exec (.setpix x y d) s = .next { s with cmds := s.cmds.tail, responses := s.responses ++ [0] } ∧
    exec (.getpix x y) s = .next { s with cmds := s.cmds.tail, responses := s.responses ++ [0] }

/-! ### The buffer synchronizer -/

/-- R96, R97: one step of a SETFRAME that has cells left to copy, the first one included: the cell its choice names, one not
copied yet, takes the staging frame's value in slot PEND and joins COPIED; every other cell of every space is unchanged, and
no register but HOST_OP. -/
def Obligations.SetFrameCopiesOneCell : Prop :=
  ∀ s : State, s.initialised = true →
    ∀ done, done = (if s.hostOp = .copying then s.copied else []) → uncopied done ≠ [] →
      ∀ c, c = { s with copied := done }.nextCopy →
      c < 4096 ∧ c ∉ done ∧
      ∃ t, exec .setframe s = .next t ∧ t.hostOp = .copying ∧ (∀ d, d ∈ t.copied ↔ d = c ∨ d ∈ done) ∧
        t.readCell (.buf s.pend) c = s.readCell .stage c ∧
        (∀ sp d, sp ≠ .buf s.pend ∨ d ≠ c → t.readCell sp d = s.readCell sp d) ∧
        t = { s with hostOp := t.hostOp, copied := t.copied, buf0 := t.buf0, buf1 := t.buf1, buf2 := t.buf2
                     picks := t.picks, draws := t.draws }

/-- R97, U6: "the order of the cells is not fixed": whatever is left to copy, any cell of it can be the next, the very first
one included. -/
def Obligations.SetFrameOrderIsFree : Prop :=
  ∀ s : State, s.initialised = true → ∀ done, done = (if s.hostOp = .copying then s.copied else []) →
    ∀ c, c < 4096 → c ∉ done →
      ∃ p t, exec .setframe { s with picks := [p] } = .next t ∧ t.hostOp = .copying ∧ ∀ d, d ∈ t.copied ↔ d = c ∨ d ∈ done

/-- R98: the exchange, when no cell is left: `(PUB, PEND) <- (PEND, PUB)`, one atomic step; INUSE and every cell are
unchanged; it responds 0. It never fails. -/
def Obligations.SetFrameExchanges : Prop :=
  commandWord .setframe = 0x90000000 ∧ NeedsInit .setframe ∧
  ∀ s : State, s.initialised = true → s.hostOp = .copying → (∀ c < 4096, c ∈ s.copied) →
    exec .setframe s = .next { s with
      pub := s.pend, pend := s.pub, hostOp := .idle, cmds := s.cmds.tail, responses := s.responses ++ [0] }

/-- R96, R99: a SETFRAME with no step between its own is exactly 4097 steps: it answers nothing for 4096 of them, and with the
last the slot it filled is PUB and holds the staging frame cell for cell, whatever the order of the copies; `stage`, the other
slots, INUSE, the trace and every register are as before. -/
def Obligations.SetFrameTakes4097Steps : Prop :=
  ∀ s : State, s.initialised = true → s.hostOp ≠ .copying →
    (∀ n, n < 4096 → ∃ t, execTimes .setframe (n + 1) s = .next t ∧ t.hostOp = .copying ∧ t.copied.length = n + 1 ∧
      t.responses = s.responses ∧ t.pub = s.pub ∧ t.pend = s.pend) ∧
    ∃ t, execTimes .setframe 4097 s = .next t ∧
      t.pub = s.pend ∧ t.pend = s.pub ∧ t.hostOp = .idle ∧
      t.cmds = s.cmds.tail ∧ t.responses = s.responses ++ [0] ∧
      (∀ c < 4096, t.readCell (.buf t.pub) c = s.readCell .stage c) ∧
      (∀ sp c, sp ≠ .buf s.pend → t.readCell sp c = s.readCell sp c) ∧
      t = { s with pub := t.pub, pend := t.pend, hostOp := t.hostOp, copied := t.copied, buf0 := t.buf0, buf1 := t.buf1
                   buf2 := t.buf2, cmds := t.cmds, responses := t.responses, picks := t.picks, draws := t.draws }

/-- R48, R99 a: whatever ticks and units fall between the copies, the cells copied so far agree with the staging frame after
every step, and the step that completes the SETFRAME publishes a slot that holds the staging frame cell for cell. -/
def Obligations.PublishedFrameIsComplete : Prop :=
  ∀ s t : State, s.Inv → s.CopyAgrees → step s = .next t →
    t.CopyAgrees ∧ (s.hostOp = .copying → t.hostOp ≠ .copying → t.pub = s.pend ∧ t.pend = s.pub ∧ t.HoldsStage t.pub)

/-- R100: `WAITSYNC t`, word `0xA0000000 | t`: responds 1 when `INUSE == PUB`, else waits with no response and no other
change; `t` is ignored. -/
def Obligations.WaitSyncWaitsForAdoption : Prop :=
  (∀ t, NeedsInit (.waitsync t)) ∧
  ∀ (s : State) (t : BitVec 16), s.initialised = true →
    (commandWord (.waitsync t)).toNat = 0xA0000000 + t.toNat ∧
    (s.inuse = s.pub → exec (.waitsync t) s = .next { s with
      hostOp := .idle, cmds := s.cmds.tail, responses := s.responses ++ [1] }) ∧
    (s.inuse ≠ s.pub → exec (.waitsync t) s = .next { s with hostOp := .waiting })

/-- R101, U8: a WAITSYNC that no adoption can satisfy hangs for ever and is no fault: every step answers a next state, in
which the host is still blocked with nothing answered. Where no timer runs that step is the idle one, the model's choice
(DESIGN CHOICE, log 12). -/
def Obligations.HungHostStaysHung : Prop :=
  ∀ s : State, s.Hung → ∃ t, step s = .next t ∧ t.Hung ∧ t.cmds = s.cmds ∧ t.responses = s.responses

/-- R106, R150: a SETFRAME begun with `INUSE = PUB` writes no slot being scanned: from such a state no step, the one that
begins the SETFRAME with its first copy included, changes a cell of the slot in use, and while it copies no adoption brings
the written slot into use. -/
def Obligations.DisciplineAvoidsTearing : Prop :=
  (∀ s : State, s.inuse = s.pub → s.pub ≠ s.pend → s.TearFree) ∧
  ∀ s t : State, s.Inv → s.TearFree → step s = .next t →
    (∀ c, t.readCell (.buf s.inuse) c = s.readCell (.buf s.inuse) c) ∧
    (t.hostOp = .copying → t.TearFree ∧ t.pend = s.pend)

/-- R150: the publish-twice hazard. With `PEND = INUSE` a copy changes a cell of the slot being scanned to the staging
frame's, and after the exchange `INUSE == PUB` holds although no adoption occurred. -/
def Obligations.PublishTwiceHazard : Prop :=
  ∀ s : State, s.initialised = true → s.hostOp = .copying → s.pend = s.inuse →
    (uncopied s.copied ≠ [] → ∃ t, exec .setframe s = .next t ∧ t.inuse = s.inuse ∧
      t.readCell (.buf t.inuse) s.nextCopy = s.readCell .stage s.nextCopy) ∧
    (uncopied s.copied = [] → ∃ t, exec .setframe s = .next t ∧ t.inuse = s.inuse ∧ t.inuse = t.pub)

/-! ### The refresh tick -/

/-- R84 to R89, R71 to R80: the whole tick in one record, for the slot, pass, brightness, mask and polarity sampled on entry:
the levels of 128 columns, the events in their order, the address, the successor of the scan position, adoption at the
boundary, and the re-arm or the dark output. It always completes (R90); every register, role, memory and host field not named
is unchanged. It is taken only when the timer is armed and its load is counted, and the host cannot issue it.
That DWELL_CNT is held with `RUN = 0` is the model's choice (DESIGN CHOICE, log 26): U13 lets it be any value. -/
def Obligations.RefreshTick : Prop :=
  (∀ w, decodeWord w ≠ .ok .rtick) ∧
  (∀ s : State, s.turn = .interrupt .refresh → s.armed = true ∧ s.dwellCnt = 0) ∧
  ∀ s : State, s.sr.length = 128 →
    exec .rtick s = .next { s with
      armed := s.run
      row := s.row + 1
      bp := if s.row = 15 then s.bp + 1 else s.bp
      inuse := if s.row = 15 ∧ s.bp = 3 then s.pub else s.inuse
      dwellCnt := if s.run then Config.sched s.bp else s.dwellCnt
      d1 := (s.tickLevels 127).d1
      d2 := (s.tickLevels 127).d2
      clk := false
      lat := false
      oe := s.run
      a := s.row
      trace := s.trace ++ s.tickEvents
      sr := s.tickLine
      latched := s.tickLine
      lrow := s.row }

/-- R87: the successor of the scan position is `(pc + 1) mod 64` in `pc = BP × 16 + ROW`, row fastest. -/
def Obligations.ScanPositionSuccessor : Prop :=
  ∀ s : State, ∃ t, exec .rtick s = .next t ∧ t.pc = (s.pc + 1) % 64 ∧
    t.row.toNat = (s.row.toNat + 1) % 16 ∧
    t.bp.toNat = if s.row.toNat = 15 then (s.bp.toNat + 1) % 4 else s.bp.toNat

/-- R88: the tick at `(15, 3)`, and no other, performs `INUSE <- PUB`, unconditionally; and no step of the engine but such a
tick and INIT ever writes INUSE. -/
def Obligations.OnlyTheBoundaryTickAdopts : Prop :=
  (∀ s : State, ∃ t, exec .rtick s = .next t ∧
    t.inuse = if s.row = 15 ∧ s.bp = 3 then s.pub else s.inuse) ∧
  ∀ s t : State, step s = .next t → s.initialised = true → t.inuse ≠ s.inuse →
    s.turn = .interrupt .refresh ∧ s.row = 15 ∧ s.bp = 3 ∧ t.inuse = s.pub

/-- R89: with `RUN = 1` the timer is loaded with the dwell of the bit-plane the tick drove and armed; with `RUN = 0` it is not
armed, the output is disabled, and the tick's last two events are `OE(1)`, `OE(0)`. That DWELL_CNT is held with `RUN = 0` is
the model's choice (DESIGN CHOICE, log 26): U13 lets it be any value. -/
def Obligations.TickRearmsOrStops : Prop :=
  ∀ s : State, ∃ t, exec .rtick s = .next t ∧
    (s.run = true → t.armed = true ∧ t.dwellCnt = Config.sched s.bp ∧ t.oe = true ∧
      ∃ evs, t.trace = evs ++ [.oe true, .arm (Config.sched s.bp)]) ∧
    (s.run = false → t.armed = false ∧ t.dwellCnt = s.dwellCnt ∧ t.oe = false ∧
      ∃ evs, t.trace = evs ++ [.oe true, .oe false])

/-- R81: a call of the row driver emits 260 events: 128 `DATA`, 128 `CLK`, one `OE(0)` that stands immediately before the
`DATA` of column `b` with `b` clocks before it, and `ADDR(r)`, `LAT`, `OE(1)` at the end; the tick adds one event more. On
return `A = r`, `CLK` and `LAT` are 0, and the data pins hold the levels of column 127. -/
def Obligations.TickEmitsItsEventsInOrder : Prop :=
  ∀ s : State, ∃ (t : State) (before : List Event) (d1 d2 : BitVec 3) (after : List Event) (last : Event),
    exec .rtick s = .next t ∧
    t.trace = s.trace ++ (before ++ [Event.oe false, Event.data d1 d2, Event.clk] ++ after ++
      [Event.addr s.row, Event.lat, Event.oe true]) ++ [last] ∧
    (before ++ [Event.oe false, Event.data d1 d2, Event.clk] ++ after ++
      [Event.addr s.row, Event.lat, Event.oe true]).length = 260 ∧
    before.count .clk = s.bri.toNat ∧ before.count .clk + 1 + after.count .clk = 128 ∧
    (∀ e ∈ before ++ after, e = .clk ∨ ∃ x y, e = .data x y) ∧
    ((before ++ after).countP fun e => e ≠ .clk) = 127 ∧
    t.a = s.row ∧ t.clk = false ∧ t.lat = false ∧ t.d1 = (s.tickLevels 127).d1 ∧ t.d2 = (s.tickLevels 127).d2

/-- R83: when every cell of the slot in use is 15, every `DATA` event of the tick is the mask in the polarity's levels; when
every cell is 0, it is the not-lit level, whatever the mask. -/
def Obligations.UniformFrames : Prop :=
  ∀ s : State, ∃ t, exec .rtick s = .next t ∧
    ((∀ c < 4096, s.readCell (.buf s.inuse) c = 15) →
      ∀ x y : BitVec 3, Event.data x y ∈ t.trace.drop s.trace.length →
        x = mask s.col s.cc ^^^ (s.pol ++ s.pol ++ s.pol : BitVec 3) ∧
        y = mask s.col s.cc ^^^ (s.pol ++ s.pol ++ s.pol : BitVec 3)) ∧
    ((∀ c < 4096, s.readCell (.buf s.inuse) c = 0) →
      ∀ x y : BitVec 3, Event.data x y ∈ t.trace.drop s.trace.length →
        x = (s.pol ++ s.pol ++ s.pol : BitVec 3) ∧ y = (s.pol ++ s.pol ++ s.pol : BitVec 3))

/-- R37, R73 to R75, R82: what the abstract panel shows after a tick with `RUN = 1` is the pass it drove: exactly the channels
that the mask enables and the cell's bit lights, on the rows `row` and `row + 16`, whatever the polarity; every other row is
dark. -/
def Obligations.PanelShowsThePass : Prop :=
  ∀ s : State, s.sr.length = 128 → s.run = true →
    ∃ t, exec .rtick s = .next t ∧ ∀ y x i : Nat,
      t.shows y x i = (decide (x < 128) && decide (i < 3) &&
        (decide (y = s.row.toNat) || decide (y = s.row.toNat + 16)) &&
        (mask s.col s.cc).getLsbD i && (s.readCell (.buf s.inuse) (y * 128 + x)).getLsbD s.bp.toNat)

/-- R91: from scan position 0, the `n`-th tick of a frame drives row `n mod 16` of bit-plane `n / 16`, for `n` in 0..63, each
pass once; after 64 ticks the scan position is 0 again. -/
def Obligations.FrameVisitsEveryPassOnce : Prop :=
  ∀ s : State, s.pc = 0 →
    (∀ n < 64, ∃ t u, execTimes .rtick n s = .next t ∧ t.row.toNat = n % 16 ∧ t.bp.toNat = n / 16 ∧
      exec .rtick t = .next u ∧ u.a = t.row ∧ (s.run = true → u.dwellCnt = Config.sched t.bp)) ∧
    ∃ t, execTimes .rtick 64 s = .next t ∧ t.row = 0 ∧ t.bp = 0

/-- R92: with `RUN = 1`, the `ARM` events of the 64 ticks of a frame carry sixteen times 1, 2, 30 and 45, in that order, 1248
units in all; and the dwell time units a cell of each intensity is lit in a frame. -/
def Obligations.FrameDwells : Prop :=
  ∀ s : State, s.pc = 0 → s.run = true → ∃ t, execTimes .rtick 64 s = .next t ∧
    (t.trace.drop s.trace.length).filterMap armLoad =
      List.replicate 16 1 ++ List.replicate 16 2 ++ List.replicate 16 30 ++ List.replicate 16 45 ∧
    ((t.trace.drop s.trace.length).filterMap armLoad).sum = 1248 ∧
    ((List.range 16).map fun d => litUnits (BitVec.ofNat 4 d)) =
      [0, 1, 2, 3, 30, 31, 32, 33, 45, 46, 47, 48, 75, 76, 77, 78]

/-- R27: the dwell of bit-plane `k` is schedule element `k` of `[1, 2, 30, 45]`. -/
def Obligations.DwellSchedule : Prop :=
  ([0, 1, 2, 3].map fun k : BitVec 2 => (Config.sched k).toNat) = [1, 2, 30, 45]

/-- R161: the duration of a frame, in the OPEN units (DESIGN CHOICE, log 20). -/
def Obligations.FrameDuration : Prop := frameTime = 1248 * tDwellUnit + 64 * tShift

/-- R93 b: from any scan position the next adoption is performed by the `(64 − pc)`-th following tick, and none before it; it
leaves `INUSE = PUB`, so a waiting WAITSYNC is answered within 64 ticks (R101). -/
def Obligations.NextAdoptionIsTheBoundaryTick : Prop :=
  ∀ s : State,
    (∀ n < 64 - s.pc, ∃ t, execTimes .rtick n s = .next t ∧ t.inuse = s.inuse ∧ t.pub = s.pub) ∧
    ∃ t, execTimes .rtick (64 - s.pc) s = .next t ∧ t.inuse = s.pub ∧ t.pub = s.pub ∧ t.pc = 0

/-- R94, R146, R153: after a STOP the tick still due runs whole and leaves the engine idle and dark; and from an idle engine
no step arms the timer but a START. -/
def Obligations.StopTakesOneMoreTick : Prop :=
  (∀ s : State, s.run = false → ∃ t, exec .rtick s = .next t ∧ t.pc = (s.pc + 1) % 64 ∧
    t.armed = false ∧ t.run = false ∧ t.oe = false ∧ ∀ y x i, t.shows y x i = false) ∧
  ∀ s t : State, step s = .next t → s.armed = false → t.armed = true →
    s.turn = .host ∧ s.atPort = some (.ok .start)

/-! ### Whole-machine rules -/

/-- The invariant holds at reset, and so does the agreement of copied cells (PublishedFrameIsComplete). It rests on the reset
values of log 1 (DESIGN CHOICE) for CC and COL. -/
def Obligations.ResetMeetsInvariant : Prop := State.reset.Inv ∧ State.reset.CopyAgrees

/-- R20, R22, R25 a and b, R32, R35, R37, R114, R120, R147, R163: every step keeps the invariant. -/
def Obligations.EveryStepKeepsInvariant : Prop :=
  ∀ s t : State, s.Inv → step s = .next t → t.Inv

/-- R120: between steps, `RUN = 1` implies `ARMED = 1`: every step keeps it, from every state that has it, reached or not. The
converse fails after a STOP. -/
def Obligations.RunImpliesArmed : Prop :=
  (State.reset.run = true → State.reset.armed = true) ∧
  (∀ s t : State, (s.run = true → s.armed = true) → step s = .next t → (t.run = true → t.armed = true)) ∧
  ∀ s : State, s.initialised = true → s.armed = true → ∃ t, exec .stop s = .next t ∧ t.armed = true ∧ t.run = false

/-- R25: the roles after INIT. Every step keeps `PUB ≠ PEND` and `{PUB, PEND} = {0, 1}`; INUSE is slot 2 from INIT to the
first adoption and never again; from then on exactly one of `INUSE = PUB` and `INUSE = PEND` holds; no step writes slot 2. -/
def Obligations.RolesAfterInit : Prop :=
  (∀ (s t : State) (cc : BitVec 2) (pol : BitVec 1), cc ≠ 0 → exec (.init cc pol) s = .next t →
    t.pub ≠ t.pend ∧ t.pub ≠ .s2 ∧ t.pend ≠ .s2 ∧ t.inuse = .s2) ∧
  ∀ s t : State, s.Inv → s.initialised = true → step s = .next t →
    (t.pub ≠ t.pend ∧ t.pub ≠ .s2 ∧ t.pend ≠ .s2) ∧
    (t.inuse = s.inuse ∨ t.inuse = s.pub) ∧ (s.inuse ≠ .s2 → t.inuse ≠ .s2) ∧
    (t.inuse ≠ .s2 → (t.inuse = t.pub ∧ t.inuse ≠ t.pend) ∨ (t.inuse ≠ t.pub ∧ t.inuse = t.pend)) ∧
    ∀ c, t.readCell (.buf .s2) c = s.readCell (.buf .s2) c

/-- R39, R41, R97: who writes memory. A step that changes a cell is a host step: a SETPIX, in `stage`, at its own coordinates,
or a SETFRAME, in slot PEND, at the cell its copy has chosen. -/
def Obligations.OnlyTwoCommandsWriteMemory : Prop :=
  ∀ (s t : State) (sp : Space) (c : Nat), step s = .next t → t.readCell sp c ≠ s.readCell sp c →
    s.turn = .host ∧
    ((sp = .stage ∧ ∃ x y d, s.atPort = some (.ok (.setpix x y d)) ∧ hostCell x y = some c) ∨
     (sp = .buf s.pend ∧ s.atPort = some (.ok .setframe) ∧ c = s.settled.beginCopy.nextCopy))

/-- R39, R71: the frame of every operation that stores nothing: no cell of any space changes. -/
def Obligations.OtherOperationsWriteNoCell : Prop :=
  ∀ (i : Instr) (s t : State), exec i s = .next t → i ≠ .setframe → (∀ x y d, i ≠ .setpix x y d) →
    ∀ sp c, t.readCell sp c = s.readCell sp c

/-- The canonical form of memory (DESIGN CHOICE, log 2): every operation keeps it, in every state. -/
def Obligations.OperationsKeepMemoryCanonical : Prop :=
  ∀ (i : Instr) (s t : State), (∀ sp, Memory.wf (s.cellsOf sp) = true) → exec i s = .next t →
    ∀ sp, Memory.wf (t.cellsOf sp) = true

/-- R33, R104: the host cannot read the frame store. Two states that differ in the three buffers alone give every command the
same outcome but for the buffers. -/
def Obligations.HostCannotReadTheFrameStore : Prop :=
  ∀ (i : Instr) (s t : State), Safety.isCommand i = true → s.SameButFrames t →
    (∀ f, exec i s = .fault f ↔ exec i t = .fault f) ∧
    ∀ s', exec i s = .next s' → ∃ t', exec i t = .next t' ∧ s'.SameButFrames t'

/-- R36, R37, R145: the trace and the abstract panel are devices of observation: no step reads them. Two states that differ in
them alone take the same step but for them. -/
def Obligations.ObservationChangesNothing : Prop :=
  ∀ (s s' : State) (tr : List Event) (a b : List Levels) (r : BitVec 4), step s = .next s' →
    ∃ tr' a' b' r', step { s with trace := tr, sr := a, latched := b, lrow := r } =
      .next { s' with trace := tr', sr := a', latched := b', lrow := r' }

/-- R163: a quiescent state of the engine is stopped and dark, and no agent but the host can take a step in it. -/
def Obligations.QuiescentIsDark : Prop :=
  ∀ s : State, s.Inv → s.hostOp = .idle → s.armed = false → s.cycRun = false →
    s.oe = false ∧ s.run = false ∧ (s.turn = .host ∨ s.turn = .idle) ∧ (s.turn = .idle ↔ s.cmds = [])

/-- R162 (R101): every run is fair. While the timer is armed a refresh tick eventually occurs; while the cycler runs a colour
tick eventually occurs, infinitely many if it runs on; a command eventually completes, or the host comes to hang on a WAITSYNC
that no adoption can satisfy; a SETFRAME in its copy phase eventually makes its exchange. It rests on the model's order of
moves, in which every draw names every mover (DESIGN CHOICE, logs 6 and 20), and on the finite list of commands (DESIGN
CHOICE, log 8). -/
def Obligations.EveryRunIsFair : Prop :=
  ∀ r : Nat → State, Run r → (r 0).Inv → ∀ n,
    ((r n).armed = true → ∃ m ≥ n, (r m).turn = .interrupt .refresh) ∧
    ((r n).cycRun = true → ∃ m ≥ n, (r m).turn = .interrupt .colourCycle ∨ (r m).cycRun = false) ∧
    ((∀ m ≥ n, (r m).cycRun = true) → ∀ k, ∃ m ≥ k, (r m).turn = .interrupt .colourCycle) ∧
    (∀ w ws, (r n).cmds = w :: ws → (∃ m ≥ n, (r m).turn = .host ∧ (r m).cmds = w :: ws ∧ (r (m + 1)).cmds = ws) ∨
      ∃ m ≥ n, (r m).Hung ∧ (r m).cmds = w :: ws) ∧
    ((r n).hostOp = .copying → ∃ m ≥ n, (r m).hostOp = .copying ∧ (r (m + 1)).hostOp = .idle ∧
      (r (m + 1)).pub = (r m).pend ∧ (r (m + 1)).pend = (r m).pub)
end

