-- ==== Sys2Proof/Laws/State.lean ====
section
/-! SUPPORT. What each update of the state does to each field, one lemma a field, so that no proof unfolds a record update. -/

namespace Sys2Proof.Machine

variable (s : State)


/-! ### State.emit -/

@[simp] theorem emit_initialised (e : Event) : (s.emit e).initialised = s.initialised := rfl
@[simp] theorem emit_run (e : Event) : (s.emit e).run = s.run := rfl
@[simp] theorem emit_armed (e : Event) : (s.emit e).armed = s.armed := rfl
@[simp] theorem emit_cycRun (e : Event) : (s.emit e).cycRun = s.cycRun := rfl
@[simp] theorem emit_row (e : Event) : (s.emit e).row = s.row := rfl
@[simp] theorem emit_bp (e : Event) : (s.emit e).bp = s.bp := rfl
@[simp] theorem emit_bri (e : Event) : (s.emit e).bri = s.bri := rfl
@[simp] theorem emit_col (e : Event) : (s.emit e).col = s.col := rfl
@[simp] theorem emit_pol (e : Event) : (s.emit e).pol = s.pol := rfl
@[simp] theorem emit_cc (e : Event) : (s.emit e).cc = s.cc := rfl
@[simp] theorem emit_pub (e : Event) : (s.emit e).pub = s.pub := rfl
@[simp] theorem emit_pend (e : Event) : (s.emit e).pend = s.pend := rfl
@[simp] theorem emit_inuse (e : Event) : (s.emit e).inuse = s.inuse := rfl
@[simp] theorem emit_dwellCnt (e : Event) : (s.emit e).dwellCnt = s.dwellCnt := rfl
@[simp] theorem emit_cycCnt (e : Event) : (s.emit e).cycCnt = s.cycCnt := rfl
@[simp] theorem emit_d1 (e : Event) : (s.emit e).d1 = s.d1 := rfl
@[simp] theorem emit_d2 (e : Event) : (s.emit e).d2 = s.d2 := rfl
@[simp] theorem emit_clk (e : Event) : (s.emit e).clk = s.clk := rfl
@[simp] theorem emit_lat (e : Event) : (s.emit e).lat = s.lat := rfl
@[simp] theorem emit_oe (e : Event) : (s.emit e).oe = s.oe := rfl
@[simp] theorem emit_a (e : Event) : (s.emit e).a = s.a := rfl
@[simp] theorem emit_buf0 (e : Event) : (s.emit e).buf0 = s.buf0 := rfl
@[simp] theorem emit_buf1 (e : Event) : (s.emit e).buf1 = s.buf1 := rfl
@[simp] theorem emit_buf2 (e : Event) : (s.emit e).buf2 = s.buf2 := rfl
@[simp] theorem emit_stage (e : Event) : (s.emit e).stage = s.stage := rfl
@[simp] theorem emit_hostOp (e : Event) : (s.emit e).hostOp = s.hostOp := rfl
@[simp] theorem emit_copied (e : Event) : (s.emit e).copied = s.copied := rfl
@[simp] theorem emit_trace (e : Event) : (s.emit e).trace = s.trace ++ [e] := rfl
@[simp] theorem emit_sr (e : Event) : (s.emit e).sr = s.sr := rfl
@[simp] theorem emit_latched (e : Event) : (s.emit e).latched = s.latched := rfl
@[simp] theorem emit_lrow (e : Event) : (s.emit e).lrow = s.lrow := rfl
@[simp] theorem emit_cmds (e : Event) : (s.emit e).cmds = s.cmds := rfl
@[simp] theorem emit_responses (e : Event) : (s.emit e).responses = s.responses := rfl
@[simp] theorem emit_turns (e : Event) : (s.emit e).turns = s.turns := rfl
@[simp] theorem emit_picks (e : Event) : (s.emit e).picks = s.picks := rfl
@[simp] theorem emit_draws (e : Event) : (s.emit e).draws = s.draws := rfl

/-! ### State.respond -/

@[simp] theorem respond_initialised (r : Word) : (s.respond r).initialised = s.initialised := rfl
@[simp] theorem respond_run (r : Word) : (s.respond r).run = s.run := rfl
@[simp] theorem respond_armed (r : Word) : (s.respond r).armed = s.armed := rfl
@[simp] theorem respond_cycRun (r : Word) : (s.respond r).cycRun = s.cycRun := rfl
@[simp] theorem respond_row (r : Word) : (s.respond r).row = s.row := rfl
@[simp] theorem respond_bp (r : Word) : (s.respond r).bp = s.bp := rfl
@[simp] theorem respond_bri (r : Word) : (s.respond r).bri = s.bri := rfl
@[simp] theorem respond_col (r : Word) : (s.respond r).col = s.col := rfl
@[simp] theorem respond_pol (r : Word) : (s.respond r).pol = s.pol := rfl
@[simp] theorem respond_cc (r : Word) : (s.respond r).cc = s.cc := rfl
@[simp] theorem respond_pub (r : Word) : (s.respond r).pub = s.pub := rfl
@[simp] theorem respond_pend (r : Word) : (s.respond r).pend = s.pend := rfl
@[simp] theorem respond_inuse (r : Word) : (s.respond r).inuse = s.inuse := rfl
@[simp] theorem respond_dwellCnt (r : Word) : (s.respond r).dwellCnt = s.dwellCnt := rfl
@[simp] theorem respond_cycCnt (r : Word) : (s.respond r).cycCnt = s.cycCnt := rfl
@[simp] theorem respond_d1 (r : Word) : (s.respond r).d1 = s.d1 := rfl
@[simp] theorem respond_d2 (r : Word) : (s.respond r).d2 = s.d2 := rfl
@[simp] theorem respond_clk (r : Word) : (s.respond r).clk = s.clk := rfl
@[simp] theorem respond_lat (r : Word) : (s.respond r).lat = s.lat := rfl
@[simp] theorem respond_oe (r : Word) : (s.respond r).oe = s.oe := rfl
@[simp] theorem respond_a (r : Word) : (s.respond r).a = s.a := rfl
@[simp] theorem respond_buf0 (r : Word) : (s.respond r).buf0 = s.buf0 := rfl
@[simp] theorem respond_buf1 (r : Word) : (s.respond r).buf1 = s.buf1 := rfl
@[simp] theorem respond_buf2 (r : Word) : (s.respond r).buf2 = s.buf2 := rfl
@[simp] theorem respond_stage (r : Word) : (s.respond r).stage = s.stage := rfl
@[simp] theorem respond_hostOp (r : Word) : (s.respond r).hostOp = s.hostOp := rfl
@[simp] theorem respond_copied (r : Word) : (s.respond r).copied = s.copied := rfl
@[simp] theorem respond_trace (r : Word) : (s.respond r).trace = s.trace := rfl
@[simp] theorem respond_sr (r : Word) : (s.respond r).sr = s.sr := rfl
@[simp] theorem respond_latched (r : Word) : (s.respond r).latched = s.latched := rfl
@[simp] theorem respond_lrow (r : Word) : (s.respond r).lrow = s.lrow := rfl
@[simp] theorem respond_cmds (r : Word) : (s.respond r).cmds = s.cmds.tail := rfl
@[simp] theorem respond_responses (r : Word) : (s.respond r).responses = s.responses ++ [r] := rfl
@[simp] theorem respond_turns (r : Word) : (s.respond r).turns = s.turns := rfl
@[simp] theorem respond_picks (r : Word) : (s.respond r).picks = s.picks := rfl
@[simp] theorem respond_draws (r : Word) : (s.respond r).draws = s.draws := rfl

/-! ### State.setOe -/

@[simp] theorem setOe_initialised (e : Bool) : (s.setOe e).initialised = s.initialised := rfl
@[simp] theorem setOe_run (e : Bool) : (s.setOe e).run = s.run := rfl
@[simp] theorem setOe_armed (e : Bool) : (s.setOe e).armed = s.armed := rfl
@[simp] theorem setOe_cycRun (e : Bool) : (s.setOe e).cycRun = s.cycRun := rfl
@[simp] theorem setOe_row (e : Bool) : (s.setOe e).row = s.row := rfl
@[simp] theorem setOe_bp (e : Bool) : (s.setOe e).bp = s.bp := rfl
@[simp] theorem setOe_bri (e : Bool) : (s.setOe e).bri = s.bri := rfl
@[simp] theorem setOe_col (e : Bool) : (s.setOe e).col = s.col := rfl
@[simp] theorem setOe_pol (e : Bool) : (s.setOe e).pol = s.pol := rfl
@[simp] theorem setOe_cc (e : Bool) : (s.setOe e).cc = s.cc := rfl
@[simp] theorem setOe_pub (e : Bool) : (s.setOe e).pub = s.pub := rfl
@[simp] theorem setOe_pend (e : Bool) : (s.setOe e).pend = s.pend := rfl
@[simp] theorem setOe_inuse (e : Bool) : (s.setOe e).inuse = s.inuse := rfl
@[simp] theorem setOe_dwellCnt (e : Bool) : (s.setOe e).dwellCnt = s.dwellCnt := rfl
@[simp] theorem setOe_cycCnt (e : Bool) : (s.setOe e).cycCnt = s.cycCnt := rfl
@[simp] theorem setOe_d1 (e : Bool) : (s.setOe e).d1 = s.d1 := rfl
@[simp] theorem setOe_d2 (e : Bool) : (s.setOe e).d2 = s.d2 := rfl
@[simp] theorem setOe_clk (e : Bool) : (s.setOe e).clk = s.clk := rfl
@[simp] theorem setOe_lat (e : Bool) : (s.setOe e).lat = s.lat := rfl
@[simp] theorem setOe_oe (e : Bool) : (s.setOe e).oe = e := rfl
@[simp] theorem setOe_a (e : Bool) : (s.setOe e).a = s.a := rfl
@[simp] theorem setOe_buf0 (e : Bool) : (s.setOe e).buf0 = s.buf0 := rfl
@[simp] theorem setOe_buf1 (e : Bool) : (s.setOe e).buf1 = s.buf1 := rfl
@[simp] theorem setOe_buf2 (e : Bool) : (s.setOe e).buf2 = s.buf2 := rfl
@[simp] theorem setOe_stage (e : Bool) : (s.setOe e).stage = s.stage := rfl
@[simp] theorem setOe_hostOp (e : Bool) : (s.setOe e).hostOp = s.hostOp := rfl
@[simp] theorem setOe_copied (e : Bool) : (s.setOe e).copied = s.copied := rfl
@[simp] theorem setOe_trace (e : Bool) : (s.setOe e).trace = s.trace ++ [.oe e] := rfl
@[simp] theorem setOe_sr (e : Bool) : (s.setOe e).sr = s.sr := rfl
@[simp] theorem setOe_latched (e : Bool) : (s.setOe e).latched = s.latched := rfl
@[simp] theorem setOe_lrow (e : Bool) : (s.setOe e).lrow = s.lrow := rfl
@[simp] theorem setOe_cmds (e : Bool) : (s.setOe e).cmds = s.cmds := rfl
@[simp] theorem setOe_responses (e : Bool) : (s.setOe e).responses = s.responses := rfl
@[simp] theorem setOe_turns (e : Bool) : (s.setOe e).turns = s.turns := rfl
@[simp] theorem setOe_picks (e : Bool) : (s.setOe e).picks = s.picks := rfl
@[simp] theorem setOe_draws (e : Bool) : (s.setOe e).draws = s.draws := rfl

/-! ### State.driveData -/

@[simp] theorem driveData_initialised (x y : BitVec 3) : (s.driveData x y).initialised = s.initialised := rfl
@[simp] theorem driveData_run (x y : BitVec 3) : (s.driveData x y).run = s.run := rfl
@[simp] theorem driveData_armed (x y : BitVec 3) : (s.driveData x y).armed = s.armed := rfl
@[simp] theorem driveData_cycRun (x y : BitVec 3) : (s.driveData x y).cycRun = s.cycRun := rfl
@[simp] theorem driveData_row (x y : BitVec 3) : (s.driveData x y).row = s.row := rfl
@[simp] theorem driveData_bp (x y : BitVec 3) : (s.driveData x y).bp = s.bp := rfl
@[simp] theorem driveData_bri (x y : BitVec 3) : (s.driveData x y).bri = s.bri := rfl
@[simp] theorem driveData_col (x y : BitVec 3) : (s.driveData x y).col = s.col := rfl
@[simp] theorem driveData_pol (x y : BitVec 3) : (s.driveData x y).pol = s.pol := rfl
@[simp] theorem driveData_cc (x y : BitVec 3) : (s.driveData x y).cc = s.cc := rfl
@[simp] theorem driveData_pub (x y : BitVec 3) : (s.driveData x y).pub = s.pub := rfl
@[simp] theorem driveData_pend (x y : BitVec 3) : (s.driveData x y).pend = s.pend := rfl
@[simp] theorem driveData_inuse (x y : BitVec 3) : (s.driveData x y).inuse = s.inuse := rfl
@[simp] theorem driveData_dwellCnt (x y : BitVec 3) : (s.driveData x y).dwellCnt = s.dwellCnt := rfl
@[simp] theorem driveData_cycCnt (x y : BitVec 3) : (s.driveData x y).cycCnt = s.cycCnt := rfl
@[simp] theorem driveData_d1 (x y : BitVec 3) : (s.driveData x y).d1 = x := rfl
@[simp] theorem driveData_d2 (x y : BitVec 3) : (s.driveData x y).d2 = y := rfl
@[simp] theorem driveData_clk (x y : BitVec 3) : (s.driveData x y).clk = s.clk := rfl
@[simp] theorem driveData_lat (x y : BitVec 3) : (s.driveData x y).lat = s.lat := rfl
@[simp] theorem driveData_oe (x y : BitVec 3) : (s.driveData x y).oe = s.oe := rfl
@[simp] theorem driveData_a (x y : BitVec 3) : (s.driveData x y).a = s.a := rfl
@[simp] theorem driveData_buf0 (x y : BitVec 3) : (s.driveData x y).buf0 = s.buf0 := rfl
@[simp] theorem driveData_buf1 (x y : BitVec 3) : (s.driveData x y).buf1 = s.buf1 := rfl
@[simp] theorem driveData_buf2 (x y : BitVec 3) : (s.driveData x y).buf2 = s.buf2 := rfl
@[simp] theorem driveData_stage (x y : BitVec 3) : (s.driveData x y).stage = s.stage := rfl
@[simp] theorem driveData_hostOp (x y : BitVec 3) : (s.driveData x y).hostOp = s.hostOp := rfl
@[simp] theorem driveData_copied (x y : BitVec 3) : (s.driveData x y).copied = s.copied := rfl
@[simp] theorem driveData_trace (x y : BitVec 3) : (s.driveData x y).trace = s.trace ++ [.data x y] := rfl
@[simp] theorem driveData_sr (x y : BitVec 3) : (s.driveData x y).sr = s.sr := rfl
@[simp] theorem driveData_latched (x y : BitVec 3) : (s.driveData x y).latched = s.latched := rfl
@[simp] theorem driveData_lrow (x y : BitVec 3) : (s.driveData x y).lrow = s.lrow := rfl
@[simp] theorem driveData_cmds (x y : BitVec 3) : (s.driveData x y).cmds = s.cmds := rfl
@[simp] theorem driveData_responses (x y : BitVec 3) : (s.driveData x y).responses = s.responses := rfl
@[simp] theorem driveData_turns (x y : BitVec 3) : (s.driveData x y).turns = s.turns := rfl
@[simp] theorem driveData_picks (x y : BitVec 3) : (s.driveData x y).picks = s.picks := rfl
@[simp] theorem driveData_draws (x y : BitVec 3) : (s.driveData x y).draws = s.draws := rfl

/-! ### State.pulseClk -/

@[simp] theorem pulseClk_initialised : s.pulseClk.initialised = s.initialised := rfl
@[simp] theorem pulseClk_run : s.pulseClk.run = s.run := rfl
@[simp] theorem pulseClk_armed : s.pulseClk.armed = s.armed := rfl
@[simp] theorem pulseClk_cycRun : s.pulseClk.cycRun = s.cycRun := rfl
@[simp] theorem pulseClk_row : s.pulseClk.row = s.row := rfl
@[simp] theorem pulseClk_bp : s.pulseClk.bp = s.bp := rfl
@[simp] theorem pulseClk_bri : s.pulseClk.bri = s.bri := rfl
@[simp] theorem pulseClk_col : s.pulseClk.col = s.col := rfl
@[simp] theorem pulseClk_pol : s.pulseClk.pol = s.pol := rfl
@[simp] theorem pulseClk_cc : s.pulseClk.cc = s.cc := rfl
@[simp] theorem pulseClk_pub : s.pulseClk.pub = s.pub := rfl
@[simp] theorem pulseClk_pend : s.pulseClk.pend = s.pend := rfl
@[simp] theorem pulseClk_inuse : s.pulseClk.inuse = s.inuse := rfl
@[simp] theorem pulseClk_dwellCnt : s.pulseClk.dwellCnt = s.dwellCnt := rfl
@[simp] theorem pulseClk_cycCnt : s.pulseClk.cycCnt = s.cycCnt := rfl
@[simp] theorem pulseClk_d1 : s.pulseClk.d1 = s.d1 := rfl
@[simp] theorem pulseClk_d2 : s.pulseClk.d2 = s.d2 := rfl
@[simp] theorem pulseClk_clk : s.pulseClk.clk = false := rfl
@[simp] theorem pulseClk_lat : s.pulseClk.lat = s.lat := rfl
@[simp] theorem pulseClk_oe : s.pulseClk.oe = s.oe := rfl
@[simp] theorem pulseClk_a : s.pulseClk.a = s.a := rfl
@[simp] theorem pulseClk_buf0 : s.pulseClk.buf0 = s.buf0 := rfl
@[simp] theorem pulseClk_buf1 : s.pulseClk.buf1 = s.buf1 := rfl
@[simp] theorem pulseClk_buf2 : s.pulseClk.buf2 = s.buf2 := rfl
@[simp] theorem pulseClk_stage : s.pulseClk.stage = s.stage := rfl
@[simp] theorem pulseClk_hostOp : s.pulseClk.hostOp = s.hostOp := rfl
@[simp] theorem pulseClk_copied : s.pulseClk.copied = s.copied := rfl
@[simp] theorem pulseClk_trace : s.pulseClk.trace = s.trace ++ [.clk] := rfl
@[simp] theorem pulseClk_sr : s.pulseClk.sr = (s.sr ++ [Levels.mk s.d1 s.d2]).tail := rfl
@[simp] theorem pulseClk_latched : s.pulseClk.latched = s.latched := rfl
@[simp] theorem pulseClk_lrow : s.pulseClk.lrow = s.lrow := rfl
@[simp] theorem pulseClk_cmds : s.pulseClk.cmds = s.cmds := rfl
@[simp] theorem pulseClk_responses : s.pulseClk.responses = s.responses := rfl
@[simp] theorem pulseClk_turns : s.pulseClk.turns = s.turns := rfl
@[simp] theorem pulseClk_picks : s.pulseClk.picks = s.picks := rfl
@[simp] theorem pulseClk_draws : s.pulseClk.draws = s.draws := rfl

/-! ### State.setAddr -/

@[simp] theorem setAddr_initialised (r : BitVec 4) : (s.setAddr r).initialised = s.initialised := rfl
@[simp] theorem setAddr_run (r : BitVec 4) : (s.setAddr r).run = s.run := rfl
@[simp] theorem setAddr_armed (r : BitVec 4) : (s.setAddr r).armed = s.armed := rfl
@[simp] theorem setAddr_cycRun (r : BitVec 4) : (s.setAddr r).cycRun = s.cycRun := rfl
@[simp] theorem setAddr_row (r : BitVec 4) : (s.setAddr r).row = s.row := rfl
@[simp] theorem setAddr_bp (r : BitVec 4) : (s.setAddr r).bp = s.bp := rfl
@[simp] theorem setAddr_bri (r : BitVec 4) : (s.setAddr r).bri = s.bri := rfl
@[simp] theorem setAddr_col (r : BitVec 4) : (s.setAddr r).col = s.col := rfl
@[simp] theorem setAddr_pol (r : BitVec 4) : (s.setAddr r).pol = s.pol := rfl
@[simp] theorem setAddr_cc (r : BitVec 4) : (s.setAddr r).cc = s.cc := rfl
@[simp] theorem setAddr_pub (r : BitVec 4) : (s.setAddr r).pub = s.pub := rfl
@[simp] theorem setAddr_pend (r : BitVec 4) : (s.setAddr r).pend = s.pend := rfl
@[simp] theorem setAddr_inuse (r : BitVec 4) : (s.setAddr r).inuse = s.inuse := rfl
@[simp] theorem setAddr_dwellCnt (r : BitVec 4) : (s.setAddr r).dwellCnt = s.dwellCnt := rfl
@[simp] theorem setAddr_cycCnt (r : BitVec 4) : (s.setAddr r).cycCnt = s.cycCnt := rfl
@[simp] theorem setAddr_d1 (r : BitVec 4) : (s.setAddr r).d1 = s.d1 := rfl
@[simp] theorem setAddr_d2 (r : BitVec 4) : (s.setAddr r).d2 = s.d2 := rfl
@[simp] theorem setAddr_clk (r : BitVec 4) : (s.setAddr r).clk = s.clk := rfl
@[simp] theorem setAddr_lat (r : BitVec 4) : (s.setAddr r).lat = s.lat := rfl
@[simp] theorem setAddr_oe (r : BitVec 4) : (s.setAddr r).oe = s.oe := rfl
@[simp] theorem setAddr_a (r : BitVec 4) : (s.setAddr r).a = r := rfl
@[simp] theorem setAddr_buf0 (r : BitVec 4) : (s.setAddr r).buf0 = s.buf0 := rfl
@[simp] theorem setAddr_buf1 (r : BitVec 4) : (s.setAddr r).buf1 = s.buf1 := rfl
@[simp] theorem setAddr_buf2 (r : BitVec 4) : (s.setAddr r).buf2 = s.buf2 := rfl
@[simp] theorem setAddr_stage (r : BitVec 4) : (s.setAddr r).stage = s.stage := rfl
@[simp] theorem setAddr_hostOp (r : BitVec 4) : (s.setAddr r).hostOp = s.hostOp := rfl
@[simp] theorem setAddr_copied (r : BitVec 4) : (s.setAddr r).copied = s.copied := rfl
@[simp] theorem setAddr_trace (r : BitVec 4) : (s.setAddr r).trace = s.trace ++ [.addr r] := rfl
@[simp] theorem setAddr_sr (r : BitVec 4) : (s.setAddr r).sr = s.sr := rfl
@[simp] theorem setAddr_latched (r : BitVec 4) : (s.setAddr r).latched = s.latched := rfl
@[simp] theorem setAddr_lrow (r : BitVec 4) : (s.setAddr r).lrow = s.lrow := rfl
@[simp] theorem setAddr_cmds (r : BitVec 4) : (s.setAddr r).cmds = s.cmds := rfl
@[simp] theorem setAddr_responses (r : BitVec 4) : (s.setAddr r).responses = s.responses := rfl
@[simp] theorem setAddr_turns (r : BitVec 4) : (s.setAddr r).turns = s.turns := rfl
@[simp] theorem setAddr_picks (r : BitVec 4) : (s.setAddr r).picks = s.picks := rfl
@[simp] theorem setAddr_draws (r : BitVec 4) : (s.setAddr r).draws = s.draws := rfl

/-! ### State.pulseLat -/

@[simp] theorem pulseLat_initialised : s.pulseLat.initialised = s.initialised := rfl
@[simp] theorem pulseLat_run : s.pulseLat.run = s.run := rfl
@[simp] theorem pulseLat_armed : s.pulseLat.armed = s.armed := rfl
@[simp] theorem pulseLat_cycRun : s.pulseLat.cycRun = s.cycRun := rfl
@[simp] theorem pulseLat_row : s.pulseLat.row = s.row := rfl
@[simp] theorem pulseLat_bp : s.pulseLat.bp = s.bp := rfl
@[simp] theorem pulseLat_bri : s.pulseLat.bri = s.bri := rfl
@[simp] theorem pulseLat_col : s.pulseLat.col = s.col := rfl
@[simp] theorem pulseLat_pol : s.pulseLat.pol = s.pol := rfl
@[simp] theorem pulseLat_cc : s.pulseLat.cc = s.cc := rfl
@[simp] theorem pulseLat_pub : s.pulseLat.pub = s.pub := rfl
@[simp] theorem pulseLat_pend : s.pulseLat.pend = s.pend := rfl
@[simp] theorem pulseLat_inuse : s.pulseLat.inuse = s.inuse := rfl
@[simp] theorem pulseLat_dwellCnt : s.pulseLat.dwellCnt = s.dwellCnt := rfl
@[simp] theorem pulseLat_cycCnt : s.pulseLat.cycCnt = s.cycCnt := rfl
@[simp] theorem pulseLat_d1 : s.pulseLat.d1 = s.d1 := rfl
@[simp] theorem pulseLat_d2 : s.pulseLat.d2 = s.d2 := rfl
@[simp] theorem pulseLat_clk : s.pulseLat.clk = s.clk := rfl
@[simp] theorem pulseLat_lat : s.pulseLat.lat = false := rfl
@[simp] theorem pulseLat_oe : s.pulseLat.oe = s.oe := rfl
@[simp] theorem pulseLat_a : s.pulseLat.a = s.a := rfl
@[simp] theorem pulseLat_buf0 : s.pulseLat.buf0 = s.buf0 := rfl
@[simp] theorem pulseLat_buf1 : s.pulseLat.buf1 = s.buf1 := rfl
@[simp] theorem pulseLat_buf2 : s.pulseLat.buf2 = s.buf2 := rfl
@[simp] theorem pulseLat_stage : s.pulseLat.stage = s.stage := rfl
@[simp] theorem pulseLat_hostOp : s.pulseLat.hostOp = s.hostOp := rfl
@[simp] theorem pulseLat_copied : s.pulseLat.copied = s.copied := rfl
@[simp] theorem pulseLat_trace : s.pulseLat.trace = s.trace ++ [.lat] := rfl
@[simp] theorem pulseLat_sr : s.pulseLat.sr = s.sr := rfl
@[simp] theorem pulseLat_latched : s.pulseLat.latched = s.sr := rfl
@[simp] theorem pulseLat_lrow : s.pulseLat.lrow = s.a := rfl
@[simp] theorem pulseLat_cmds : s.pulseLat.cmds = s.cmds := rfl
@[simp] theorem pulseLat_responses : s.pulseLat.responses = s.responses := rfl
@[simp] theorem pulseLat_turns : s.pulseLat.turns = s.turns := rfl
@[simp] theorem pulseLat_picks : s.pulseLat.picks = s.picks := rfl
@[simp] theorem pulseLat_draws : s.pulseLat.draws = s.draws := rfl

/-! ### State.armDwell -/

@[simp] theorem armDwell_initialised (n : BitVec 6) : (s.armDwell n).initialised = s.initialised := rfl
@[simp] theorem armDwell_run (n : BitVec 6) : (s.armDwell n).run = s.run := rfl
@[simp] theorem armDwell_armed (n : BitVec 6) : (s.armDwell n).armed = true := rfl
@[simp] theorem armDwell_cycRun (n : BitVec 6) : (s.armDwell n).cycRun = s.cycRun := rfl
@[simp] theorem armDwell_row (n : BitVec 6) : (s.armDwell n).row = s.row := rfl
@[simp] theorem armDwell_bp (n : BitVec 6) : (s.armDwell n).bp = s.bp := rfl
@[simp] theorem armDwell_bri (n : BitVec 6) : (s.armDwell n).bri = s.bri := rfl
@[simp] theorem armDwell_col (n : BitVec 6) : (s.armDwell n).col = s.col := rfl
@[simp] theorem armDwell_pol (n : BitVec 6) : (s.armDwell n).pol = s.pol := rfl
@[simp] theorem armDwell_cc (n : BitVec 6) : (s.armDwell n).cc = s.cc := rfl
@[simp] theorem armDwell_pub (n : BitVec 6) : (s.armDwell n).pub = s.pub := rfl
@[simp] theorem armDwell_pend (n : BitVec 6) : (s.armDwell n).pend = s.pend := rfl
@[simp] theorem armDwell_inuse (n : BitVec 6) : (s.armDwell n).inuse = s.inuse := rfl
@[simp] theorem armDwell_dwellCnt (n : BitVec 6) : (s.armDwell n).dwellCnt = n := rfl
@[simp] theorem armDwell_cycCnt (n : BitVec 6) : (s.armDwell n).cycCnt = s.cycCnt := rfl
@[simp] theorem armDwell_d1 (n : BitVec 6) : (s.armDwell n).d1 = s.d1 := rfl
@[simp] theorem armDwell_d2 (n : BitVec 6) : (s.armDwell n).d2 = s.d2 := rfl
@[simp] theorem armDwell_clk (n : BitVec 6) : (s.armDwell n).clk = s.clk := rfl
@[simp] theorem armDwell_lat (n : BitVec 6) : (s.armDwell n).lat = s.lat := rfl
@[simp] theorem armDwell_oe (n : BitVec 6) : (s.armDwell n).oe = s.oe := rfl
@[simp] theorem armDwell_a (n : BitVec 6) : (s.armDwell n).a = s.a := rfl
@[simp] theorem armDwell_buf0 (n : BitVec 6) : (s.armDwell n).buf0 = s.buf0 := rfl
@[simp] theorem armDwell_buf1 (n : BitVec 6) : (s.armDwell n).buf1 = s.buf1 := rfl
@[simp] theorem armDwell_buf2 (n : BitVec 6) : (s.armDwell n).buf2 = s.buf2 := rfl
@[simp] theorem armDwell_stage (n : BitVec 6) : (s.armDwell n).stage = s.stage := rfl
@[simp] theorem armDwell_hostOp (n : BitVec 6) : (s.armDwell n).hostOp = s.hostOp := rfl
@[simp] theorem armDwell_copied (n : BitVec 6) : (s.armDwell n).copied = s.copied := rfl
@[simp] theorem armDwell_trace (n : BitVec 6) : (s.armDwell n).trace = s.trace ++ [.arm n] := rfl
@[simp] theorem armDwell_sr (n : BitVec 6) : (s.armDwell n).sr = s.sr := rfl
@[simp] theorem armDwell_latched (n : BitVec 6) : (s.armDwell n).latched = s.latched := rfl
@[simp] theorem armDwell_lrow (n : BitVec 6) : (s.armDwell n).lrow = s.lrow := rfl
@[simp] theorem armDwell_cmds (n : BitVec 6) : (s.armDwell n).cmds = s.cmds := rfl
@[simp] theorem armDwell_responses (n : BitVec 6) : (s.armDwell n).responses = s.responses := rfl
@[simp] theorem armDwell_turns (n : BitVec 6) : (s.armDwell n).turns = s.turns := rfl
@[simp] theorem armDwell_picks (n : BitVec 6) : (s.armDwell n).picks = s.picks := rfl
@[simp] theorem armDwell_draws (n : BitVec 6) : (s.armDwell n).draws = s.draws := rfl

/-! ### State.writeCell: it touches no register -/

@[simp] theorem writeCell_initialised (sp : Space) (c : Nat) (v : Cell) : (s.writeCell sp c v).initialised = s.initialised := by
  rcases sp with (_ | _ | _) | _ <;> rfl
@[simp] theorem writeCell_run (sp : Space) (c : Nat) (v : Cell) : (s.writeCell sp c v).run = s.run := by
  rcases sp with (_ | _ | _) | _ <;> rfl
@[simp] theorem writeCell_armed (sp : Space) (c : Nat) (v : Cell) : (s.writeCell sp c v).armed = s.armed := by
  rcases sp with (_ | _ | _) | _ <;> rfl
@[simp] theorem writeCell_cycRun (sp : Space) (c : Nat) (v : Cell) : (s.writeCell sp c v).cycRun = s.cycRun := by
  rcases sp with (_ | _ | _) | _ <;> rfl
@[simp] theorem writeCell_row (sp : Space) (c : Nat) (v : Cell) : (s.writeCell sp c v).row = s.row := by
  rcases sp with (_ | _ | _) | _ <;> rfl
@[simp] theorem writeCell_bp (sp : Space) (c : Nat) (v : Cell) : (s.writeCell sp c v).bp = s.bp := by
  rcases sp with (_ | _ | _) | _ <;> rfl
@[simp] theorem writeCell_bri (sp : Space) (c : Nat) (v : Cell) : (s.writeCell sp c v).bri = s.bri := by
  rcases sp with (_ | _ | _) | _ <;> rfl
@[simp] theorem writeCell_col (sp : Space) (c : Nat) (v : Cell) : (s.writeCell sp c v).col = s.col := by
  rcases sp with (_ | _ | _) | _ <;> rfl
@[simp] theorem writeCell_pol (sp : Space) (c : Nat) (v : Cell) : (s.writeCell sp c v).pol = s.pol := by
  rcases sp with (_ | _ | _) | _ <;> rfl
@[simp] theorem writeCell_cc (sp : Space) (c : Nat) (v : Cell) : (s.writeCell sp c v).cc = s.cc := by
  rcases sp with (_ | _ | _) | _ <;> rfl
@[simp] theorem writeCell_pub (sp : Space) (c : Nat) (v : Cell) : (s.writeCell sp c v).pub = s.pub := by
  rcases sp with (_ | _ | _) | _ <;> rfl
@[simp] theorem writeCell_pend (sp : Space) (c : Nat) (v : Cell) : (s.writeCell sp c v).pend = s.pend := by
  rcases sp with (_ | _ | _) | _ <;> rfl
@[simp] theorem writeCell_inuse (sp : Space) (c : Nat) (v : Cell) : (s.writeCell sp c v).inuse = s.inuse := by
  rcases sp with (_ | _ | _) | _ <;> rfl
@[simp] theorem writeCell_dwellCnt (sp : Space) (c : Nat) (v : Cell) : (s.writeCell sp c v).dwellCnt = s.dwellCnt := by
  rcases sp with (_ | _ | _) | _ <;> rfl
@[simp] theorem writeCell_cycCnt (sp : Space) (c : Nat) (v : Cell) : (s.writeCell sp c v).cycCnt = s.cycCnt := by
  rcases sp with (_ | _ | _) | _ <;> rfl
@[simp] theorem writeCell_d1 (sp : Space) (c : Nat) (v : Cell) : (s.writeCell sp c v).d1 = s.d1 := by
  rcases sp with (_ | _ | _) | _ <;> rfl
@[simp] theorem writeCell_d2 (sp : Space) (c : Nat) (v : Cell) : (s.writeCell sp c v).d2 = s.d2 := by
  rcases sp with (_ | _ | _) | _ <;> rfl
@[simp] theorem writeCell_clk (sp : Space) (c : Nat) (v : Cell) : (s.writeCell sp c v).clk = s.clk := by
  rcases sp with (_ | _ | _) | _ <;> rfl
@[simp] theorem writeCell_lat (sp : Space) (c : Nat) (v : Cell) : (s.writeCell sp c v).lat = s.lat := by
  rcases sp with (_ | _ | _) | _ <;> rfl
@[simp] theorem writeCell_oe (sp : Space) (c : Nat) (v : Cell) : (s.writeCell sp c v).oe = s.oe := by
  rcases sp with (_ | _ | _) | _ <;> rfl
@[simp] theorem writeCell_a (sp : Space) (c : Nat) (v : Cell) : (s.writeCell sp c v).a = s.a := by
  rcases sp with (_ | _ | _) | _ <;> rfl
@[simp] theorem writeCell_hostOp (sp : Space) (c : Nat) (v : Cell) : (s.writeCell sp c v).hostOp = s.hostOp := by
  rcases sp with (_ | _ | _) | _ <;> rfl
@[simp] theorem writeCell_copied (sp : Space) (c : Nat) (v : Cell) : (s.writeCell sp c v).copied = s.copied := by
  rcases sp with (_ | _ | _) | _ <;> rfl
@[simp] theorem writeCell_trace (sp : Space) (c : Nat) (v : Cell) : (s.writeCell sp c v).trace = s.trace := by
  rcases sp with (_ | _ | _) | _ <;> rfl
@[simp] theorem writeCell_sr (sp : Space) (c : Nat) (v : Cell) : (s.writeCell sp c v).sr = s.sr := by
  rcases sp with (_ | _ | _) | _ <;> rfl
@[simp] theorem writeCell_latched (sp : Space) (c : Nat) (v : Cell) : (s.writeCell sp c v).latched = s.latched := by
  rcases sp with (_ | _ | _) | _ <;> rfl
@[simp] theorem writeCell_lrow (sp : Space) (c : Nat) (v : Cell) : (s.writeCell sp c v).lrow = s.lrow := by
  rcases sp with (_ | _ | _) | _ <;> rfl
@[simp] theorem writeCell_cmds (sp : Space) (c : Nat) (v : Cell) : (s.writeCell sp c v).cmds = s.cmds := by
  rcases sp with (_ | _ | _) | _ <;> rfl
@[simp] theorem writeCell_responses (sp : Space) (c : Nat) (v : Cell) : (s.writeCell sp c v).responses = s.responses := by
  rcases sp with (_ | _ | _) | _ <;> rfl
@[simp] theorem writeCell_turns (sp : Space) (c : Nat) (v : Cell) : (s.writeCell sp c v).turns = s.turns := by
  rcases sp with (_ | _ | _) | _ <;> rfl
@[simp] theorem writeCell_picks (sp : Space) (c : Nat) (v : Cell) : (s.writeCell sp c v).picks = s.picks := by
  rcases sp with (_ | _ | _) | _ <;> rfl
@[simp] theorem writeCell_draws (sp : Space) (c : Nat) (v : Cell) : (s.writeCell sp c v).draws = s.draws := by
  rcases sp with (_ | _ | _) | _ <;> rfl

end Sys2Proof.Machine
end

