-- ==== Sys2Proof/Laws/Memory.lean ====
section
/-! SUPPORT. The laws of memory: a read after a write, the frame of a write, and the canonical form. -/

namespace Sys2Proof.Machine

/-! ### One address space -/

theorem lookup_store_same (m : Memory) (c : Nat) (v : Cell) : (Memory.store m c v).lookup c = some v := by
  induction m with
  | nil => simp [Memory.store, Memory.lookup]
  | cons e m ih =>
    obtain ⟨k, u⟩ := e
    unfold Memory.store
    split
    · simp [Memory.lookup]
    · split
      · simp [Memory.lookup]
      · simp [Memory.lookup, *]

theorem lookup_store_other (m : Memory) {c d : Nat} (v : Cell) (h : d ≠ c) :
    (Memory.store m c v).lookup d = m.lookup d := by
  induction m with
  | nil => simp [Memory.store, Memory.lookup, h]
  | cons e m ih =>
    obtain ⟨k, u⟩ := e
    unfold Memory.store
    split
    · simp [Memory.lookup, h]
    · split
      · rename_i hck; subst hck; simp [Memory.lookup, h]
      · simp [Memory.lookup, ih]

theorem risesFrom_weaken {m : Memory} {lo lo' : Nat} (h : Memory.risesFrom lo m = true) (hl : lo' ≤ lo) :
    Memory.risesFrom lo' m = true := by
  cases m with
  | nil => rfl
  | cons e m =>
    simp only [Memory.risesFrom, Bool.and_eq_true, decide_eq_true_eq] at h ⊢
    exact ⟨by omega, h.2⟩

theorem store_risesFrom {m : Memory} {lo c : Nat} (v : Cell) (h : Memory.risesFrom lo m = true) (hc : lo ≤ c) :
    Memory.risesFrom lo (Memory.store m c v) = true := by
  induction m generalizing lo with
  | nil => simp [Memory.store, Memory.risesFrom, hc]
  | cons e m ih =>
    obtain ⟨k, u⟩ := e
    simp only [Memory.risesFrom, Bool.and_eq_true, decide_eq_true_eq] at h
    unfold Memory.store
    split
    · simp only [Memory.risesFrom, Bool.and_eq_true, decide_eq_true_eq]
      exact ⟨hc, by omega, h.2⟩
    · split
      · rename_i hck; subst hck
        simp only [Memory.risesFrom, Bool.and_eq_true, decide_eq_true_eq]
        exact h
      · simp only [Memory.risesFrom, Bool.and_eq_true, decide_eq_true_eq]
        exact ⟨h.1, ih h.2 (by omega)⟩

theorem store_all_lt {m : Memory} {c n : Nat} (v : Cell) (h : (m.all fun e => e.1 < n) = true) (hc : c < n) :
    ((Memory.store m c v).all fun e => e.1 < n) = true := by
  induction m with
  | nil => simp [Memory.store, hc]
  | cons e m ih =>
    obtain ⟨k, u⟩ := e
    simp only [List.all_cons, Bool.and_eq_true, decide_eq_true_eq] at h
    unfold Memory.store
    split
    · simp only [List.all_cons, Bool.and_eq_true, decide_eq_true_eq]; exact ⟨hc, h⟩
    · split
      · simp only [List.all_cons, Bool.and_eq_true, decide_eq_true_eq]; exact ⟨hc, h.2⟩
      · simp only [List.all_cons, Bool.and_eq_true, decide_eq_true_eq]; exact ⟨h.1, ih h.2⟩

/-- A write keeps the canonical form. -/
theorem store_wf {m : Memory} {c : Nat} (v : Cell) (h : m.wf = true) (hc : c < 4096) : (Memory.store m c v).wf = true := by
  simp only [Memory.wf, Bool.and_eq_true] at h ⊢
  exact ⟨store_risesFrom v h.1 (Nat.zero_le c), store_all_lt v h.2 hc⟩

/-- The empty memory of reset is canonical. -/
theorem reset_memories (sp : Space) : Memory.wf (State.reset.cellsOf sp) = true := by
  rcases sp with (_ | _ | _) | _ <;> rfl

/-! ### The four spaces -/

variable (s : State)

theorem cellsOf_writeCell_same (sp : Space) (c : Nat) (v : Cell) :
    (s.writeCell sp c v).cellsOf sp = (s.cellsOf sp).store c v := by
  rcases sp with (_ | _ | _) | _ <;> rfl

theorem cellsOf_writeCell_other {sp sp' : Space} (c : Nat) (v : Cell) (h : sp' ≠ sp) :
    (s.writeCell sp c v).cellsOf sp' = s.cellsOf sp' := by
  rcases sp with (_ | _ | _) | _ <;> rcases sp' with (_ | _ | _) | _ <;> first | rfl | exact absurd rfl h

/-- A write of an existing cell keeps every space canonical. -/
theorem writeCell_wf (sp : Space) {c : Nat} (v : Cell) (hc : c < 4096) (h : ∀ sp', Memory.wf (s.cellsOf sp') = true)
    (sp' : Space) : Memory.wf ((s.writeCell sp c v).cellsOf sp') = true := by
  by_cases e : sp' = sp
  · subst e; rw [cellsOf_writeCell_same]; exact store_wf v (h _) hc
  · rw [cellsOf_writeCell_other s c v e]; exact h _

/-- A read after a write of the same cell gives the value written (R40). -/
@[simp] theorem readCell_writeCell_same (sp : Space) (c : Nat) (v : Cell) : (s.writeCell sp c v).readCell sp c = v := by
  simp [State.readCell, cellsOf_writeCell_same, lookup_store_same]

/-- A write leaves every other cell of every space alone (R41). -/
theorem readCell_writeCell_other {sp sp' : Space} {c d : Nat} (v : Cell) (h : sp' ≠ sp ∨ d ≠ c) :
    (s.writeCell sp c v).readCell sp' d = s.readCell sp' d := by
  by_cases e : sp' = sp
  · subst e
    have hd : d ≠ c := by simpa using h
    simp [State.readCell, cellsOf_writeCell_same, lookup_store_other _ v hd]
  · simp [State.readCell, cellsOf_writeCell_other s c v e]

/-- What a cell reads as depends on its space alone. -/
theorem readCell_congr {s t : State} {sp : Space} (h : t.cellsOf sp = s.cellsOf sp) (c : Nat) :
    t.readCell sp c = s.readCell sp c := by
  simp [State.readCell, h]

theorem cellsOf_eq_of_fields {s t : State} (h0 : t.buf0 = s.buf0) (h1 : t.buf1 = s.buf1) (h2 : t.buf2 = s.buf2)
    (h3 : t.stage = s.stage) (sp : Space) : t.cellsOf sp = s.cellsOf sp := by
  rcases sp with (_ | _ | _) | _ <;> simp [State.cellsOf, *]

/-! ### The operations that touch no memory -/

@[simp] theorem readCell_emit (e : Event) (sp : Space) (c : Nat) : (s.emit e).readCell sp c = s.readCell sp c := rfl
@[simp] theorem readCell_respond (r : Word) (sp : Space) (c : Nat) : (s.respond r).readCell sp c = s.readCell sp c := rfl
@[simp] theorem readCell_setOe (e : Bool) (sp : Space) (c : Nat) : (s.setOe e).readCell sp c = s.readCell sp c := rfl
@[simp] theorem readCell_driveData (x y : BitVec 3) (sp : Space) (c : Nat) :
    (s.driveData x y).readCell sp c = s.readCell sp c := rfl
@[simp] theorem readCell_pulseClk (sp : Space) (c : Nat) : s.pulseClk.readCell sp c = s.readCell sp c := rfl
@[simp] theorem readCell_setAddr (r : BitVec 4) (sp : Space) (c : Nat) : (s.setAddr r).readCell sp c = s.readCell sp c := rfl
@[simp] theorem readCell_pulseLat (sp : Space) (c : Nat) : s.pulseLat.readCell sp c = s.readCell sp c := rfl
@[simp] theorem readCell_armDwell (n : BitVec 6) (sp : Space) (c : Nat) : (s.armDwell n).readCell sp c = s.readCell sp c := rfl

end Sys2Proof.Machine
end

