-- ==== Sys2Proof/Laws/Operands.lean ====
section
/-! SUPPORT. What the operand forms and the pure functions give. -/

namespace Sys2Proof.Machine

/-- A host coordinate pair names a cell that exists (R43). -/
theorem hostCell_lt {x y : BitVec 12} {c : Nat} (h : hostCell x y = some c) : c < 4096 := by
  unfold hostCell at h
  split at h
  · rename_i hr
    simp only [Option.some.injEq, cellNumber, Config.width, Config.height] at h hr
    omega
  · cases h

/-- A coordinate pair in range names the cell of its row and column (R43). -/
theorem hostCell_of {x y : BitVec 12} (h : 0 ≤ x.toInt ∧ x.toInt < 128 ∧ 0 ≤ y.toInt ∧ y.toInt < 32) :
    hostCell x y = some (y.toInt.toNat * 128 + x.toInt.toNat) := if_pos h

/-- A coordinate pair out of range names none (R43). -/
theorem hostCell_none {x y : BitVec 12} (h : ¬(0 ≤ x.toInt ∧ x.toInt < 128 ∧ 0 ≤ y.toInt ∧ y.toInt < 32)) :
    hostCell x y = none := if_neg h

/-- What a coordinate pair that names a cell is (R43). -/
theorem hostCell_some {x y : BitVec 12} {c : Nat} (h : hostCell x y = some c) :
    (0 ≤ x.toInt ∧ x.toInt < 128 ∧ 0 ≤ y.toInt ∧ y.toInt < 32) ∧ c = y.toInt.toNat * 128 + x.toInt.toNat := by
  by_cases hr : 0 ≤ x.toInt ∧ x.toInt < 128 ∧ 0 ≤ y.toInt ∧ y.toInt < 32
  · rw [hostCell_of hr, Option.some.injEq] at h
    exact ⟨hr, h.symm⟩
  · rw [hostCell_none hr] at h
    cases h

/-- The range check of SETBRI, on numbers (R121). -/
theorem brightnessLegal_iff (b : BitVec 16) : brightnessLegal b = true ↔ 0 ≤ b.toInt ∧ b.toInt ≤ 63 := by
  unfold brightnessLegal sext16
  rw [Bool.and_eq_true, decide_eq_true_iff, decide_eq_true_iff]; rfl

/-- A legal brightness is its operand, as a 6-bit number (R121). -/
theorem brightness_toNat {b : BitVec 16} (h : brightnessLegal b = true) : ((b.setWidth 6).toNat : Int) = sext16 b := by
  simp only [brightnessLegal, Config.briMax, Bool.and_eq_true, decide_eq_true_eq] at h
  simp only [sext16] at h ⊢
  rw [BitVec.toInt_eq_toNat_cond] at h ⊢
  rw [BitVec.toNat_setWidth]
  split at h <;> split <;> omega

theorem two_pow_cc (cc : BitVec 2) : 1 ≤ 2 ^ cc.toNat ∧ 2 ^ cc.toNat ≤ 8 := by
  revert cc; decide

/-- The sentinel as an integer (R20). -/
theorem colMax_cast (cc : BitVec 2) : ((colMax cc : Nat) : Int) = 2 ^ cc.toNat - 1 := by
  have := two_pow_cc cc
  unfold colMax
  push_cast [Nat.cast_sub this.1]
  rfl

/-- The range check of SETCOL, on numbers (R109). -/
theorem colourLegal_iff (v : BitVec 16) (cc : BitVec 2) :
    colourLegal v cc = true ↔ 0 ≤ v.toInt ∧ v.toInt ≤ 2 ^ cc.toNat - 1 := by
  unfold colourLegal sext16
  rw [Bool.and_eq_true, decide_eq_true_iff, decide_eq_true_iff, colMax_cast]

/-- A legal colour is its operand, as a 3-bit number (R109). -/
theorem colour_toNat {v : BitVec 16} {cc : BitVec 2} (h : colourLegal v cc = true) :
    ((v.setWidth 3).toNat : Int) = sext16 v := by
  have hp := two_pow_cc cc
  simp only [colourLegal, Bool.and_eq_true, decide_eq_true_eq] at h
  simp only [sext16, colMax] at h ⊢
  rw [BitVec.toInt_eq_toNat_cond] at h ⊢
  rw [BitVec.toNat_setWidth]
  split at h <;> split <;> omega

/-- The initial colour is legal and is not the sentinel (R7, D26). -/
theorem colourInit_toNat {cc : BitVec 2} (h : cc ≠ 0) : (colourInit cc).toNat < 2 ^ cc.toNat - 1 := by
  have hp := two_pow_cc cc
  have h1 : 2 ≤ 2 ^ cc.toNat := by revert h; revert cc; decide
  have hm := Nat.mod_lt (Config.colourChoice cc) (show 0 < 2 ^ cc.toNat - 1 by omega)
  rw [colourInit, BitVec.toNat_ofNat, Nat.mod_eq_of_lt (by omega)]
  exact hm

/-- The successor in the cycle stays in the range of COL, and is 0 only where the value was (R114). -/
theorem nextColour_range (v : BitVec 3) (cc : BitVec 2) (h : v.toNat ≤ 2 ^ cc.toNat - 1) (h0 : v ≠ 0) :
    (nextColour v cc).toNat ≤ 2 ^ cc.toNat - 1 ∧ nextColour v cc ≠ 0 := by
  revert v cc; decide

/-- Bit `i` of a three-bit value built from its bits. -/
theorem pinLevels_eq (m : BitVec 3) (t p : BitVec 1) :
    pinLevels m t p = pinsOf fun i => (m.getLsbD i && t.getLsbD 0) ^^ decide (p = 1) := by
  revert m t p; decide

theorem planeBit_zero (v : Cell) (k : BitVec 2) : (planeBit v k).getLsbD 0 = v.getLsbD k.toNat := by
  revert v k; decide

end Sys2Proof.Machine
end

