-- ==== Sys2Proof/Laws/Sets.lean ====
section
/-! SUPPORT. The set COPIED and what is left to copy. -/

namespace Sys2Proof.Machine

theorem mem_uncopied {l : List Nat} {c : Nat} : c ∈ uncopied l ↔ c < 4096 ∧ c ∉ l := by
  simp [uncopied]

theorem mem_addCopied {l : List Nat} {c d : Nat} : d ∈ addCopied l c ↔ d = c ∨ d ∈ l := by
  induction l with
  | nil => simp [addCopied]
  | cons k l ih =>
    unfold addCopied
    split
    · simp
    · split
      · rename_i h; subst h; simp
      · simp [ih]; tauto

theorem addCopied_pairwise {l : List Nat} (h : l.Pairwise (· < ·)) (c : Nat) : (addCopied l c).Pairwise (· < ·) := by
  induction l with
  | nil => simp [addCopied]
  | cons k l ih =>
    rw [List.pairwise_cons] at h
    unfold addCopied
    split
    · rename_i hc
      rw [List.pairwise_cons]
      refine ⟨fun a ha => ?_, List.pairwise_cons.2 h⟩
      rcases List.mem_cons.1 ha with rfl | ha
      · exact hc
      · exact lt_trans hc (h.1 a ha)
    · split
      · exact List.pairwise_cons.2 h
      · rw [List.pairwise_cons]
        refine ⟨fun a ha => ?_, ih h.2⟩
        rcases mem_addCopied.1 ha with rfl | ha
        · omega
        · exact h.1 a ha

/-- A new cell makes the set one larger. -/
theorem length_addCopied {l : List Nat} {c : Nat} (h : c ∉ l) : (addCopied l c).length = l.length + 1 := by
  induction l with
  | nil => rfl
  | cons k l ih =>
    simp only [List.mem_cons, not_or] at h
    unfold addCopied
    split
    · rfl
    · rw [if_neg h.1]; simp [ih h.2]

/-- A list without repeats of numbers below `n`, and what it leaves of them, make up `n`. -/
theorem length_left {l : List Nat} (hn : l.Nodup) {n : Nat} (hl : ∀ c ∈ l, c < n) :
    ((List.range n).filter fun c => !l.contains c).length = n - l.length := by
  have e : ((List.range n).filter fun c => l.contains c).length = l.length := by
    refine List.Perm.length_eq ((List.perm_ext_iff_of_nodup (List.nodup_range.filter _) hn).2 fun c => ?_)
    simp only [List.mem_filter, List.mem_range, List.contains_iff_mem]
    exact ⟨fun h => h.2, fun h => ⟨hl c h, h⟩⟩
  have := List.length_eq_length_filter_add (l := List.range n) fun c => l.contains c
  rw [List.length_range, e] at this
  omega

/-- A set of existing cells and what it leaves make up the frame. -/
theorem length_uncopied {l : List Nat} (h : l.Pairwise (· < ·)) (hl : ∀ c ∈ l, c < 4096) :
    (uncopied l).length = 4096 - l.length :=
  length_left (h.imp fun h => Nat.ne_of_lt h) hl

/-- A short set of copied cells leaves some to copy. -/
theorem uncopied_ne_nil {l : List Nat} (h : l.Pairwise (· < ·)) (hl : ∀ c ∈ l, c < 4096) (hn : l.length < 4096) :
    uncopied l ≠ [] := by
  intro h0
  have hlen := length_uncopied h hl
  rw [h0, List.length_nil] at hlen
  omega

end Sys2Proof.Machine
end

