-- ==== Sys2Proof/Laws/Ops.lean ====
section
/-! SUPPORT. What each shared operation can do, one lemma an operation, so that a proof cites it and unfolds nothing. -/

namespace Sys2Proof.Machine

variable (s : State)

/-! ### The precondition (R132) -/

theorem whenInit_of {s : State} (h : s.initialised = true) (i : Instr) (t : State) : s.whenInit i t = .next t := by
  simp [State.whenInit, h]

theorem whenInit_not {s : State} (h : s.initialised = false) (i : Instr) (t : State) :
    s.whenInit i t = .fault (.preconditionViolation (commandWord i)) := by
  simp [State.whenInit, h]

theorem whenInit_next {s : State} {i : Instr} {t u : State} :
    s.whenInit i t = .next u ↔ s.initialised = true ∧ u = t := by
  cases h : s.initialised <;> simp [State.whenInit, h, eq_comm]

theorem whenInit_fault {s : State} {i : Instr} {t : State} {f : Fault} :
    s.whenInit i t = .fault f ↔ s.initialised = false ∧ f = .preconditionViolation (commandWord i) := by
  cases h : s.initialised <;> simp [State.whenInit, h, eq_comm]

theorem whenInit_not_refused {s : State} {i : Instr} {t : State} {r : Refusal} : s.whenInit i t ≠ .refused r := by
  cases h : s.initialised <;> simp [State.whenInit, h]

/-! ### Interrupts (R138, R139) -/

theorem takeInterrupt_refresh : s.takeInterrupt .refresh = { s with armed := false } := rfl

theorem takeInterrupt_colourCycle : s.takeInterrupt .colourCycle = { s with cycCnt := 60 } := rfl

/-- Returning from the refresh tick, in one record (R89). -/
theorem returnFromInterrupt_refresh (d : BitVec 6) :
    s.returnFromInterrupt d .refresh =
      { s with
        dwellCnt := if s.run then d else s.dwellCnt
        armed := s.run || s.armed
        oe := s.run && s.oe
        trace := s.trace ++ [if s.run then .arm d else .oe false] } := by
  cases h : s.run <;> simp [State.returnFromInterrupt, h, State.armDwell, State.setOe, State.emit]

/-- The successor of the scan position, in one record: the carries are the registers' own (R87, R88, R124). -/
theorem advanceScan_eq (r : BitVec 4) (k : BitVec 2) :
    s.advanceScan r k =
      { s with
        row := r + 1
        bp := if r = 15 then k + 1 else k
        inuse := if r = 15 ∧ k = 3 then s.pub else s.inuse } := by
  unfold State.advanceScan
  by_cases hr : r = 15
  · subst hr
    by_cases hk : k = 3
    · subst hk; rfl
    · have : ¬ k.toNat + 1 = Config.bitDepth := by revert hk; revert k; decide
      rw [if_pos (by rfl), if_neg this, if_pos rfl, if_neg fun h => hk h.2]; rfl
  · have : ¬ r.toNat + 1 = Config.scanRows := by revert hr; revert r; decide
    rw [if_neg this, if_neg hr, if_neg fun h => hr h.1]

/-! ### Timers (R28, R29, R118) -/

theorem armIfNot_eq :
    s.armIfNot =
      { s with
        dwellCnt := if s.armed then s.dwellCnt else Config.startDelay
        armed := true
        trace := if s.armed then s.trace else s.trace ++ [.arm Config.startDelay] } := by
  cases h : s.armed
  · simp [State.armIfNot, h, State.armDwell, State.emit]
  · simp [State.armIfNot, h]
    cases s; simp_all

theorem countDwell_eq :
    s.countDwell = { s with dwellCnt := if s.armed && s.dwellCnt ≠ 0 then s.dwellCnt - 1 else s.dwellCnt } := by
  unfold State.countDwell; split <;> rfl

theorem countCycle_eq :
    s.countCycle = { s with cycCnt := if s.cycRun && s.cycCnt ≠ 0 then s.cycCnt - 1 else s.cycCnt } := by
  unfold State.countCycle; split <;> rfl

/-! ### Colour (R109, R113) -/

theorem storeColour_eq (v : BitVec 16) :
    s.storeColour v =
      { s with
        col := v.setWidth 3
        cycRun := decide (sext16 v = colMax s.cc)
        cycCnt := if sext16 v = colMax s.cc then 60 else s.cycCnt } := by
  unfold State.storeColour; split <;> simp [*]

theorem cycleColour_eq : s.cycleColour = { s with col := if s.cycRun then nextColour s.col s.cc else s.col } := by
  unfold State.cycleColour; split <;> rfl

/-! ### SETFRAME (R96 to R98) -/

/-- Using up a pick touches only the model's own fields. -/
theorem tookPick_eq : ∃ ps n, s.tookPick = { s with picks := ps, draws := n } := by
  unfold State.tookPick; split
  · exact ⟨_, _, rfl⟩
  · exact ⟨_, _, rfl⟩

theorem beginCopy_eq :
    s.beginCopy = { s with hostOp := .copying, copied := if s.hostOp = .copying then s.copied else [] } := by
  unfold State.beginCopy; split
  · rename_i h; cases s; simp_all
  · rfl

@[simp] theorem readCell_beginCopy (sp : Space) (c : Nat) : s.beginCopy.readCell sp c = s.readCell sp c := by
  rw [beginCopy_eq]; rfl

/-- The cell the next copy takes is one not copied yet. -/
theorem nextCopy_mem {s : State} (h : uncopied s.copied ≠ []) : s.nextCopy ∈ uncopied s.copied := by
  have hl : s.pick % (uncopied s.copied).length < (uncopied s.copied).length :=
    Nat.mod_lt _ (List.length_pos_iff.2 h)
  rw [State.nextCopy, List.getD_eq_getElem _ _ hl]
  exact List.getElem_mem hl

/-- A step of a SETFRAME in its copy phase exchanges when no cell is left, and else copies a cell not copied yet. -/
theorem frameStep_cases :
    (uncopied s.copied = [] ∧ s.frameStep = s.exchange) ∨
    (s.nextCopy ∈ uncopied s.copied ∧ s.frameStep = (s.copyCell s.nextCopy).tookPick) := by
  unfold State.frameStep
  by_cases h : uncopied s.copied = []
  · exact .inl ⟨h, by rw [if_pos (List.isEmpty_iff.2 h)]⟩
  · exact .inr ⟨nextCopy_mem h, by rw [if_neg fun e => h (List.isEmpty_iff.1 e)]⟩

theorem copyCell_eq (c : Nat) :
    s.copyCell c = { s.writeCell (.buf s.pend) c (s.readCell .stage c) with copied := addCopied s.copied c } := rfl

@[simp] theorem readCell_copyCell (c : Nat) (sp : Space) (d : Nat) :
    (s.copyCell c).readCell sp d = (s.writeCell (.buf s.pend) c (s.readCell .stage c)).readCell sp d := rfl

@[simp] theorem readCell_tookPick (sp : Space) (c : Nat) : s.tookPick.readCell sp c = s.readCell sp c := by
  obtain ⟨ps, n, h⟩ := tookPick_eq s; rw [h]; rfl

end Sys2Proof.Machine
end

