-- ==== Sys2Proof/Laws/Agents.lean ====
section
/-! SUPPORT. Who takes a step, and what that says of the state. -/

namespace Sys2Proof.Machine

variable {s : State}

/-- Settling the choice touches only the model's own fields. -/
theorem settled_eq (s : State) : ∃ ts n, s.settled = { s with turns := ts, draws := n } := by
  unfold State.settled; split
  · exact ⟨_, _, rfl⟩
  · exact ⟨_, _, rfl⟩

/-- Every draw names every mover (R162). -/
theorem mem_fairTurns (n : Nat) (m : Mover) : m ∈ fairTurns n := by
  cases m <;> simp [fairTurns]

theorem upcoming_cons {m : Mover} {ms : List Mover} (h : s.turns = m :: ms) : s.upcoming = m :: ms := by
  simp [State.upcoming, h]

theorem upcoming_nil (h : s.turns = []) : s.upcoming = fairTurns s.draws := by
  simp [State.upcoming, h]

/-- The order of moves never runs out: its head is the choice, and its tail is what is left once the choice is used up. -/
theorem upcoming_eq (s : State) : s.upcoming = s.choice :: s.tookChoice.turns := by
  have h : s.upcoming ≠ [] := by
    cases ht : s.turns with
    | nil => rw [upcoming_nil ht]; exact List.ne_nil_of_mem (mem_fairTurns s.draws .host)
    | cons m ms => rw [upcoming_cons ht]; exact List.cons_ne_nil m ms
  show s.upcoming = s.upcoming.headD .host :: s.upcoming.tail
  cases hu : s.upcoming with
  | nil => exact absurd hu h
  | cons m ms => rfl

theorem turnOf_injective {m n : Mover} (h : turnOf m = turnOf n) : m = n := by
  cases m <;> cases n <;> first | rfl | cases h

theorem turnOf_ne_interrupt (m : Mover) (src : IrqSource) : turnOf m ≠ .interrupt src := by
  cases m <;> intro h <;> cases h

/-- The mover chosen is one that is able to move. -/
theorem chooseMover_cases (s : State) (l : List Mover) :
    (l = [] ∧ s.chooseMover l = .idle) ∨ ∃ m ∈ l, s.chooseMover l = turnOf m := by
  match l with
  | [] => exact .inl ⟨rfl, rfl⟩
  | [m] => exact .inr ⟨m, by simp, rfl⟩
  | m :: n :: ms =>
    refine .inr ⟨if s.choice ∈ m :: n :: ms then s.choice else m, ?_, rfl⟩
    split
    · assumption
    · simp

theorem mem_movers_host : Mover.host ∈ s.movers ↔ s.hostReady = true := by
  simp only [State.movers]
  cases s.hostReady <;> cases s.armed <;> cases s.cycRun <;> simp

theorem mem_movers_dwellUnit : Mover.dwellUnit ∈ s.movers ↔ s.armed = true := by
  simp only [State.movers]
  cases s.hostReady <;> cases s.armed <;> cases s.cycRun <;> simp

theorem mem_movers_cycUnit : Mover.cycUnit ∈ s.movers ↔ s.cycRun = true := by
  simp only [State.movers]
  cases s.hostReady <;> cases s.armed <;> cases s.cycRun <;> simp

/-- The cases of a turn (R137): a pending interrupt, refresh first; else one of those able to move; else no one. -/
theorem turn_cases (s : State) :
    (s.refreshPending = true ∧ s.turn = .interrupt .refresh) ∨
    (s.refreshPending = false ∧ s.cyclePending = true ∧ s.turn = .interrupt .colourCycle) ∨
    (s.refreshPending = false ∧ s.cyclePending = false ∧
      ((s.movers = [] ∧ s.turn = .idle) ∨ ∃ m ∈ s.movers, s.turn = turnOf m)) := by
  unfold State.turn
  cases hr : s.refreshPending
  · cases hc : s.cyclePending
    · exact .inr (.inr ⟨rfl, rfl, by simpa using chooseMover_cases s s.movers⟩)
    · exact .inr (.inl ⟨rfl, rfl, by simp⟩)
  · exact .inl ⟨rfl, by simp⟩

theorem turn_refresh (h : s.turn = .interrupt .refresh) : s.armed = true ∧ s.dwellCnt = 0 := by
  rcases turn_cases s with ⟨hr, -⟩ | ⟨-, -, ht⟩ | ⟨-, -, ⟨-, ht⟩ | ⟨m, -, ht⟩⟩
  · simpa [State.refreshPending] using hr
  · rw [h] at ht; cases ht
  · rw [h] at ht; cases ht
  · exact absurd (ht.symm.trans h) (turnOf_ne_interrupt m _)

theorem turn_colourCycle (h : s.turn = .interrupt .colourCycle) : s.cycRun = true ∧ s.cycCnt = 0 := by
  rcases turn_cases s with ⟨-, ht⟩ | ⟨-, hc, -⟩ | ⟨-, -, ⟨-, ht⟩ | ⟨m, -, ht⟩⟩
  · rw [h] at ht; cases ht
  · simpa [State.cyclePending] using hc
  · rw [h] at ht; cases ht
  · exact absurd (ht.symm.trans h) (turnOf_ne_interrupt m _)

/-- A mover's turn is its own, and it is able to move. -/
theorem turn_mover {m : Mover} (h : s.turn = turnOf m) :
    m ∈ s.movers ∧ s.refreshPending = false ∧ s.cyclePending = false := by
  rcases turn_cases s with ⟨-, ht⟩ | ⟨-, -, ht⟩ | ⟨h1, h2, ⟨-, ht⟩ | ⟨n, hn, ht⟩⟩
  · exact absurd (h.symm.trans ht) (turnOf_ne_interrupt m _)
  · exact absurd (h.symm.trans ht) (turnOf_ne_interrupt m _)
  · cases m <;> rw [ht] at h <;> cases h
  · rw [turnOf_injective (h.symm.trans ht)]; exact ⟨hn, h1, h2⟩

theorem turn_host (h : s.turn = .host) : s.hostReady = true := mem_movers_host.1 (turn_mover (m := .host) h).1

theorem turn_dwellUnit (h : s.turn = .dwellUnit) : s.armed = true ∧ s.dwellCnt ≠ 0 := by
  obtain ⟨hm, hr, -⟩ := turn_mover (m := .dwellUnit) h
  have ha := mem_movers_dwellUnit.1 hm
  exact ⟨ha, by simpa [State.refreshPending, ha] using hr⟩

theorem turn_cycUnit (h : s.turn = .cycUnit) : s.cycRun = true ∧ s.cycCnt ≠ 0 := by
  obtain ⟨hm, -, hc⟩ := turn_mover (m := .cycUnit) h
  have ha := mem_movers_cycUnit.1 hm
  exact ⟨ha, by simpa [State.cyclePending, ha] using hc⟩

/-- A ready host has a word at its port. -/
theorem hostReady_atPort (h : s.hostReady = true) : ∃ w ws, s.cmds = w :: ws ∧ s.atPort = some (decodeWord w) := by
  unfold State.hostReady at h
  cases hc : s.cmds with
  | nil => simp [hc] at h
  | cons w ws => exact ⟨w, ws, rfl, by simp [State.atPort, hc]⟩

end Sys2Proof.Machine
end

