-- ==== Sys2Proof/Laws/Encoding.lean ====
section
/-! SUPPORT. Fields and formats as numbers, so that a claim about encodings is linear arithmetic. -/

namespace Sys2Proof

/-- A field as a number (R9). -/
theorem field_toNat (w : Word) (lo len : Nat) : (w.field lo len).toNat = w.toNat / 2 ^ lo % 2 ^ len := by
  simp [Word.field, BitVec.extractLsb'_toNat, Nat.shiftRight_eq_div_pow]

/-- A field has a value exactly when its bits of the word are that number. -/
theorem field_eq_iff (w : Word) (lo len : Nat) (x : BitVec len) :
    w.field lo len = x ↔ w.toNat / 2 ^ lo % 2 ^ len = x.toNat := by
  rw [← field_toNat]
  exact ⟨fun h => by rw [h], fun h => BitVec.eq_of_toNat_eq h⟩

theorem append_toNat {m n : Nat} (x : BitVec m) (y : BitVec n) : (x ++ y).toNat = x.toNat * 2 ^ n + y.toNat := by
  rw [BitVec.toNat_append, ← Nat.shiftLeft_add_eq_or_of_lt y.isLt, Nat.shiftLeft_eq]

theorem formatZ_toNat (op : BitVec 4) : (formatZ op).toNat = op.toNat * 2 ^ 28 := by
  simp only [formatZ, append_toNat, BitVec.toNat_ofNat]; omega

theorem formatI_toNat (op : BitVec 4) (imm : BitVec 16) : (formatI op imm).toNat = op.toNat * 2 ^ 28 + imm.toNat := by
  simp only [formatI, append_toNat, BitVec.toNat_ofNat]; omega

theorem formatC_toNat (op : BitVec 4) (pol : BitVec 1) (cc : BitVec 2) :
    (formatC op pol cc).toNat = op.toNat * 2 ^ 28 + pol.toNat * 4 + cc.toNat := by
  simp only [formatC, append_toNat, BitVec.toNat_ofNat]; omega

theorem formatV_toNat (op : BitVec 4) (pol : BitVec 1) : (formatV op pol).toNat = op.toNat * 2 ^ 28 + pol.toNat := by
  simp only [formatV, append_toNat, BitVec.toNat_ofNat]; omega

theorem formatP_toNat (op d : BitVec 4) (y x : BitVec 12) :
    (formatP op d y x).toNat = op.toNat * 2 ^ 28 + d.toNat * 2 ^ 24 + y.toNat * 2 ^ 12 + x.toNat := by
  simp only [formatP, append_toNat]; omega

end Sys2Proof
end

