-- ==== Sys2Proof/Laws/PerInstr.lean ====
section
/-! SUPPORT. The family OpcodeField: the opcode of every command word an instruction encodes to is its row's (R54, R62), and
an event encodes to its interrupt source number (R60). -/

namespace Sys2Proof.Laws.OpcodeField

/-- The column `op` of the table of R62, and the IRQ number of the two events. -/
def number : Instr → Nat
  | .init _ _ => 0x1
  | .start => 0x2
  | .stop => 0x3
  | .setbri _ => 0x4
  | .getbri => 0x5
  | .setcol _ => 0x6
  | .getcol => 0x7
  | .setvar _ => 0x8
  | .setframe => 0x9
  | .waitsync _ => 0xA
  | .setpix _ _ _ => 0xB
  | .getpix _ _ => 0xC
  | .rtick => 0
  | .ctick => 1

def Statement (i : Instr) : Prop :=
  match encode i with
  | .command w => Safety.isCommand i = true ∧ Safety.opcode w = number i
  | .irq n => Safety.isCommand i = false ∧ n.toNat = number i

theorem init (cc : BitVec 2) (pol : BitVec 1) : Statement (.init cc pol) := by
  refine ⟨rfl, ?_⟩
  simp only [Safety.opcode, formatC_toNat, number, BitVec.ofNat_eq_ofNat, BitVec.toNat_ofNat]; omega

theorem start : Statement .start := by
  refine ⟨rfl, ?_⟩
  simp only [Safety.opcode, formatZ_toNat, number, BitVec.ofNat_eq_ofNat, BitVec.toNat_ofNat]; omega

theorem stop : Statement .stop := by
  refine ⟨rfl, ?_⟩
  simp only [Safety.opcode, formatZ_toNat, number, BitVec.ofNat_eq_ofNat, BitVec.toNat_ofNat]; omega

theorem setbri (b : BitVec 16) : Statement (.setbri b) := by
  refine ⟨rfl, ?_⟩
  simp only [Safety.opcode, formatI_toNat, number, BitVec.ofNat_eq_ofNat, BitVec.toNat_ofNat]; omega

theorem getbri : Statement .getbri := by
  refine ⟨rfl, ?_⟩
  simp only [Safety.opcode, formatZ_toNat, number, BitVec.ofNat_eq_ofNat, BitVec.toNat_ofNat]; omega

theorem setcol (v : BitVec 16) : Statement (.setcol v) := by
  refine ⟨rfl, ?_⟩
  simp only [Safety.opcode, formatI_toNat, number, BitVec.ofNat_eq_ofNat, BitVec.toNat_ofNat]; omega

theorem getcol : Statement .getcol := by
  refine ⟨rfl, ?_⟩
  simp only [Safety.opcode, formatZ_toNat, number, BitVec.ofNat_eq_ofNat, BitVec.toNat_ofNat]; omega

theorem setvar (pol : BitVec 1) : Statement (.setvar pol) := by
  refine ⟨rfl, ?_⟩
  simp only [Safety.opcode, formatV_toNat, number, BitVec.ofNat_eq_ofNat, BitVec.toNat_ofNat]; omega

theorem setframe : Statement .setframe := by
  refine ⟨rfl, ?_⟩
  simp only [Safety.opcode, formatZ_toNat, number, BitVec.ofNat_eq_ofNat, BitVec.toNat_ofNat]; omega

theorem waitsync (t : BitVec 16) : Statement (.waitsync t) := by
  refine ⟨rfl, ?_⟩
  simp only [Safety.opcode, formatI_toNat, number, BitVec.ofNat_eq_ofNat, BitVec.toNat_ofNat]; omega

theorem setpix (x y : BitVec 12) (d : Cell) : Statement (.setpix x y d) := by
  refine ⟨rfl, ?_⟩
  simp only [Safety.opcode, formatP_toNat, number, BitVec.ofNat_eq_ofNat, BitVec.toNat_ofNat]; omega

theorem getpix (x y : BitVec 12) : Statement (.getpix x y) := by
  refine ⟨rfl, ?_⟩
  simp only [Safety.opcode, formatP_toNat, number, BitVec.ofNat_eq_ofNat, BitVec.toNat_ofNat]; omega

theorem rtick : Statement .rtick := ⟨rfl, rfl⟩

theorem ctick : Statement .ctick := ⟨rfl, rfl⟩

end Sys2Proof.Laws.OpcodeField
end

