-- ==== Sys2Proof/Laws/RowOutput.lean ====
section
/-! SUPPORT. What the row output driver can do: one lemma for the column loop, one for the whole call. -/

namespace Sys2Proof.Machine

/-- The levels the driver computes for a column are those the pins' rule gives (R73 to R75). -/
theorem columnLevels_eq (s : State) (c : Nat) : s.columnLevels s.rowInputs c = s.tickLevels c := by
  unfold State.columnLevels State.tickLevels State.level State.lit
  simp only [State.rowInputs, pinLevels_eq, planeBit_zero, cellNumber]

/-- The events of column `c` for given inputs. -/
def eventsOfColumn (s : State) (inp : RowInputs) (c : Nat) : List Event :=
  (if c = inp.bri.toNat then [.oe false] else []) ++
    [.data (s.columnLevels inp c).d1 (s.columnLevels inp c).d2, .clk]

/-- With what a tick samples on entry they are the events the rules give (R77, R78). -/
theorem eventsOfColumn_eq (s : State) (c : Nat) : eventsOfColumn s s.rowInputs c = s.columnEvents c := by
  unfold eventsOfColumn State.columnEvents
  rw [columnLevels_eq]
  rfl

/-- `s` as the column loop leaves it: the fields it writes, given. -/
def State.withColumns (s : State) (oe : Bool) (l : Levels) (clk : Bool) (sr : List Levels) (trace : List Event) : State :=
  { s with oe := oe, d1 := l.d1, d2 := l.d2, clk := clk, sr := sr, trace := trace }

theorem columnLevels_withColumns (s : State) (oe : Bool) (l : Levels) (clk : Bool) (sr : List Levels)
    (trace : List Event) (inp : RowInputs) (c : Nat) :
    (s.withColumns oe l clk sr trace).columnLevels inp c = s.columnLevels inp c := rfl

/-- One column after some others. -/
theorem shiftColumn_withColumns (s : State) (oe : Bool) (l : Levels) (clk : Bool) (sr : List Levels)
    (trace : List Event) (inp : RowInputs) (c : Nat) :
    State.shiftColumn inp (s.withColumns oe l clk sr trace) c =
      s.withColumns (if c = inp.bri.toNat then false else oe) (s.columnLevels inp c) false
        (sr ++ [s.columnLevels inp c]).tail (trace ++ eventsOfColumn s inp c) := by
  unfold State.shiftColumn State.brightnessCut eventsOfColumn
  split
  · show State.withColumns s false _ false _ (((trace ++ [.oe false]) ++ [_]) ++ [.clk]) = _
    simp only [List.append_assoc, List.cons_append, List.nil_append]
    rfl
  · show State.withColumns s oe _ false _ ((trace ++ [_]) ++ [.clk]) = _
    simp only [List.append_assoc, List.cons_append, List.nil_append]
    rfl

/-- A shift register after one pulse and then some more. -/
theorem drop_after_shift (sr ys : List Levels) (x : Levels) (n : Nat) :
    ((sr ++ [x]).tail ++ ys).drop n = (sr ++ x :: ys).drop (n + 1) := by
  rw [← List.tail_append_of_ne_nil (by simp), ← List.drop_one, List.drop_drop, Nat.add_comm 1 n, List.append_assoc]
  rfl

/-- The column loop over the columns of `l` and then `last`. -/
theorem foldl_shiftColumn (s : State) (inp : RowInputs) (l : List Nat) (last : Nat) (oe : Bool) (lv : Levels) (clk : Bool)
    (sr : List Levels) (trace : List Event) :
    (l ++ [last]).foldl (State.shiftColumn inp) (s.withColumns oe lv clk sr trace) =
      s.withColumns (if inp.bri.toNat ∈ l ++ [last] then false else oe) (s.columnLevels inp last) false
        ((sr ++ (l ++ [last]).map (s.columnLevels inp)).drop (l.length + 1))
        (trace ++ (l ++ [last]).flatMap (eventsOfColumn s inp)) := by
  induction l generalizing oe lv clk sr trace with
  | nil =>
    rw [List.nil_append, List.foldl_cons, List.foldl_nil, shiftColumn_withColumns]
    simp only [List.mem_singleton, List.map_cons, List.map_nil, List.length_nil, List.flatMap_cons, List.flatMap_nil,
      List.append_nil, Nat.zero_add, List.drop_one, eq_comm]
  | cons c l ih =>
    rw [List.cons_append, List.foldl_cons, shiftColumn_withColumns, ih]
    congr 1
    · by_cases h : inp.bri.toNat = c
      · simp [h]
      · have h' : ¬ c = inp.bri.toNat := fun e => h e.symm
        simp [h, h']
    · rw [List.map_cons, drop_after_shift, List.length_cons]
    · simp [List.flatMap_cons]

/-- What the whole call does, in one record (R77 to R81). -/
theorem rowOutput_eq (s : State) (inp : RowInputs) :
    s.rowOutput inp =
      { s with
        oe := true
        d1 := (s.columnLevels inp 127).d1
        d2 := (s.columnLevels inp 127).d2
        clk := false
        lat := false
        a := inp.row
        sr := (s.sr ++ (List.range 128).map (s.columnLevels inp)).drop 128
        latched := (s.sr ++ (List.range 128).map (s.columnLevels inp)).drop 128
        lrow := inp.row
        trace := s.trace ++ (List.range 128).flatMap (eventsOfColumn s inp) ++ [.addr inp.row, .lat, .oe true] } := by
  have h := foldl_shiftColumn s inp (List.range 127) 127 s.oe ⟨s.d1, s.d2⟩ s.clk s.sr s.trace
  rw [← List.range_succ, List.length_range] at h
  have e : s.withColumns s.oe ⟨s.d1, s.d2⟩ s.clk s.sr s.trace = s := rfl
  rw [e] at h
  rw [State.rowOutput, State.shiftColumns, h]
  unfold State.withColumns State.setAddr State.pulseLat State.setOe State.emit
  simp only [List.append_assoc, List.cons_append, List.nil_append]

end Sys2Proof.Machine
end

