-- ==== Sys2Proof/Laws/Step.lean ====
section
/-! SUPPORT. What a step can do, said once: the cases of a next state. Every invariant of a step is a case analysis over it.
-/

namespace Sys2Proof.Machine

/-- The cases of a step that answers a next state. -/
theorem step_cases {s t : State} (h : step s = .next t) :
    (s.turn = .interrupt .refresh ∧ exec .rtick s = .next t) ∨
    (s.turn = .interrupt .colourCycle ∧ exec .ctick s = .next t) ∨
    (s.turn = .host ∧ ∃ i, s.atPort = some (.ok i) ∧ exec i s.settled = .next t) ∨
    (s.turn = .host ∧ ∃ e, s.atPort = some (.error e) ∧ t = s.settled.reject) ∨
    (s.turn = .dwellUnit ∧ t = s.settled.countDwell) ∨
    (s.turn = .cycUnit ∧ t = s.settled.countCycle) ∨
    (s.turn = .idle ∧ t = s) := by
  unfold step at h
  split at h <;> rename_i ht
  · exact .inl ⟨ht, h⟩
  · exact .inr (.inl ⟨ht, h⟩)
  · have hp : s.settled.atPort = s.atPort := by
      obtain ⟨ts, n, hs⟩ := settled_eq s; rw [hs]; rfl
    obtain ⟨w, ws, -, hw⟩ := hostReady_atPort (turn_host ht)
    unfold State.hostStep at h
    rw [hp, hw] at h
    cases hd : decodeWord w with
    | ok i =>
      simp only [hd] at h
      exact .inr (.inr (.inl ⟨ht, i, by rw [hw, hd], h⟩))
    | error e =>
      simp only [hd, Host.Outcome.next.injEq] at h
      exact .inr (.inr (.inr (.inl ⟨ht, e, by rw [hw, hd], h.symm⟩)))
  · simp only [Host.Outcome.next.injEq] at h
    exact .inr (.inr (.inr (.inr (.inl ⟨ht, h.symm⟩))))
  · simp only [Host.Outcome.next.injEq] at h
    exact .inr (.inr (.inr (.inr (.inr (.inl ⟨ht, h.symm⟩)))))
  · simp only [Host.Outcome.next.injEq] at h
    exact .inr (.inr (.inr (.inr (.inr (.inr ⟨ht, h.symm⟩)))))

@[simp] theorem atPort_settled (s : State) : s.settled.atPort = s.atPort := by
  obtain ⟨ts, n, h⟩ := settled_eq s
  rw [h]; rfl

@[simp] theorem readCell_settled (s : State) (sp : Space) (c : Nat) : s.settled.readCell sp c = s.readCell sp c := by
  obtain ⟨ts, n, h⟩ := settled_eq s
  rw [h]; rfl

/-- The command port holds no event (R60). -/
theorem atPort_command {s : State} {i : Instr} (h : s.atPort = some (.ok i)) : i ≠ .rtick ∧ i ≠ .ctick := by
  unfold State.atPort at h
  cases hc : s.cmds with
  | nil => rw [hc] at h; cases h
  | cons w ws =>
    rw [hc] at h
    injection h with h
    refine ⟨?_, ?_⟩ <;> rintro rfl
    all_goals
      unfold decodeWord at h
      split at h <;> (try simp only [whenZero] at h) <;> (repeat' (split at h)) <;> cases h

/-- Running an operation once more after a next state. -/
theorem execTimes_succ {i : Instr} {n : Nat} {s t : State} (h : exec i s = .next t) :
    execTimes i (n + 1) s = execTimes i n t := by
  simp [execTimes, h]

/-- Two runs of an operation, one after the other. -/
theorem execTimes_add {i : Instr} {m n : Nat} {s t : State} (h : execTimes i m s = .next t) :
    execTimes i (m + n) s = execTimes i n t := by
  induction m generalizing s with
  | zero =>
    simp only [execTimes, Host.Outcome.next.injEq] at h
    rw [Nat.zero_add, h]
  | succ m ih =>
    rw [Nat.succ_add, execTimes]
    rw [execTimes] at h
    split at h
    · exact ih h
    · cases h
    · cases h

end Sys2Proof.Machine
end

