-- ==== Sys2Proof/Laws/Runs.lean ====
section
/-! SUPPORT. Fairness of runs (R162): a mover that stays able to move does move. Every draw of the free order names every
mover, and no interrupt stays pending for more than one step. -/

namespace Sys2Proof.Machine

/-- No operation reads or writes the free order of moves. -/
theorem exec_turns {i : Instr} {s t : State} (h : exec i s = .next t) : t.turns = s.turns := by
  cases i with
  | rtick =>
    simp only [exec, execRtick, Host.Outcome.next.injEq, returnFromInterrupt_refresh, advanceScan_eq, rowOutput_eq,
      takeInterrupt_refresh] at h
    rw [← h]
  | ctick =>
    simp only [exec, execCtick, Host.Outcome.next.injEq, takeInterrupt_colourCycle, cycleColour_eq] at h
    rw [← h]; rfl
  | init cc pol =>
    simp only [exec, execInit] at h
    split at h
    · cases h; rfl
    · split at h
      · cases h
      · cases h; rfl
  | start => simp only [exec, execStart, whenInit_next, armIfNot_eq] at h; rw [h.2]; rfl
  | stop => simp only [exec, execStop, whenInit_next] at h; rw [h.2]; rfl
  | setbri b => simp only [exec, execSetbri, whenInit_next] at h; rw [h.2]; split <;> rfl
  | getbri => simp only [exec, execGetbri, whenInit_next] at h; rw [h.2]; rfl
  | setcol v => simp only [exec, execSetcol, whenInit_next, storeColour_eq] at h; rw [h.2]; split <;> rfl
  | getcol => simp only [exec, execGetcol, whenInit_next] at h; rw [h.2]; rfl
  | setvar v => simp only [exec, execSetvar, whenInit_next] at h; rw [h.2]; rfl
  | setframe =>
    simp only [exec, execSetframe, whenInit_next] at h
    rw [h.2]
    have hb : s.beginCopy.turns = s.turns := by rw [beginCopy_eq]
    rcases frameStep_cases s.beginCopy with ⟨-, he⟩ | ⟨-, he⟩
    · rw [he]; exact hb
    · obtain ⟨ps, n, hp⟩ := tookPick_eq (s.beginCopy.copyCell s.beginCopy.nextCopy)
      rw [he, hp, copyCell_eq]
      exact (writeCell_turns _ _ _ _).trans hb
  | waitsync v => simp only [exec, execWaitsync, whenInit_next] at h; rw [h.2]; split <;> rfl
  | setpix x y d => simp only [exec, execSetpix, whenInit_next] at h; rw [h.2]; split <;> simp
  | getpix x y => simp only [exec, execGetpix, whenInit_next] at h; rw [h.2]; split <;> rfl

/-- A step uses up the free order by what its turn used, and by nothing else. -/
theorem step_turns {s t : State} (h : step s = .next t) : t.turns = s.settled.turns := by
  have hs : s.contested = false → s.turns = s.settled.turns := fun hc => by simp [State.settled, hc]
  rcases step_cases h with ⟨ht, h⟩ | ⟨ht, h⟩ | ⟨-, i, -, h⟩ | ⟨-, e, -, h⟩ | ⟨-, h⟩ | ⟨-, h⟩ | ⟨ht, h⟩
  · obtain ⟨ha, hd⟩ := turn_refresh ht
    exact (exec_turns h).trans (hs (by simp [State.contested, State.refreshPending, ha, hd]))
  · obtain ⟨ha, hd⟩ := turn_colourCycle ht
    exact (exec_turns h).trans (hs (by simp [State.contested, State.cyclePending, ha, hd]))
  · exact exec_turns h
  · rw [h]; rfl
  · rw [h, countDwell_eq]
  · rw [h, countCycle_eq]
  · rw [h]
    refine hs ?_
    rcases turn_cases s with ⟨-, h'⟩ | ⟨-, -, h'⟩ | ⟨-, -, ⟨hm, -⟩ | ⟨m, -, h'⟩⟩
    · rw [ht] at h'; cases h'
    · rw [ht] at h'; cases h'
    · simp [State.contested, hm]
    · rw [ht] at h'; cases m <;> cases h'

/-- A refresh tick leaves no refresh interrupt pending, and the colour-cycle interrupt as it was (R89, R138). -/
theorem rtick_pending {s t : State} (h : exec .rtick s = .next t) :
    t.refreshPending = false ∧ t.cyclePending = s.cyclePending := by
  simp only [exec, execRtick, Host.Outcome.next.injEq, returnFromInterrupt_refresh, advanceScan_eq, rowOutput_eq,
    takeInterrupt_refresh] at h
  subst h
  have hd : ∀ k, Config.sched k ≠ 0 := by decide
  refine ⟨?_, rfl⟩
  cases hr : s.run
  · simp [State.refreshPending]
  · simpa [State.refreshPending] using hd s.rowInputs.plane

/-- A colour tick leaves no colour-cycle interrupt pending, and the refresh interrupt as it was (R113, R138). -/
theorem ctick_pending {s t : State} (h : exec .ctick s = .next t) :
    t.cyclePending = false ∧ t.refreshPending = s.refreshPending := by
  simp only [exec, execCtick, Host.Outcome.next.injEq, takeInterrupt_colourCycle, cycleColour_eq] at h
  subst h
  exact ⟨by simp [State.cyclePending, State.returnFromInterrupt], rfl⟩

/-- What happens to a mover that is able, in a step with no interrupt pending: it moves, or another is named before it. -/
theorem moves_or_next {s t : State} {m : Mover} (h : step s = .next t) (hr : s.refreshPending = false)
    (hc : s.cyclePending = false) (hm : m ∈ s.movers) :
    s.turn = turnOf m ∨ (s.choice ≠ m ∧ s.upcoming = s.choice :: t.turns) := by
  by_cases hcon : s.contested = true
  · by_cases hch : s.choice = m
    · left
      unfold State.turn
      rw [if_neg (by simp [hr]), if_neg (by simp [hc])]
      match hl : s.movers with
      | [] => simp [hl] at hm
      | [n] => rw [hl, List.mem_singleton] at hm; rw [hm]; rfl
      | n :: n' :: ms =>
        show turnOf (if s.choice ∈ n :: n' :: ms then s.choice else n) = _
        rw [hch, if_pos (hl ▸ hm)]
    · refine .inr ⟨hch, ?_⟩
      rw [step_turns h, State.settled, if_pos hcon]
      exact upcoming_eq s
  · left
    have hlen : ¬2 ≤ s.movers.length := fun h2 => hcon (by simp [State.contested, hr, hc, h2])
    unfold State.turn
    rw [if_neg (by simp [hr]), if_neg (by simp [hc])]
    match hl : s.movers with
    | [] => simp [hl] at hm
    | [n] => rw [hl, List.mem_singleton] at hm; rw [hm]; rfl
    | n :: n' :: ms => simp [hl] at hlen

/-! ### Runs -/

variable {r : Nat → State}

/-- Soon no interrupt is pending, with the free order as it was. -/
theorem Run.settles (hr : Run r) (n : Nat) : ∃ k ≥ n, (r k).refreshPending = false ∧ (r k).cyclePending = false ∧
    (r k).turns = (r n).turns := by
  have hint : ∀ k src, (r k).turn = .interrupt src → (r (k + 1)).turns = (r k).turns := by
    intro k src h
    have h1 := hr k
    unfold step at h1
    cases src <;> simp only [h] at h1 <;> exact exec_turns h1
  have hcyc : ∀ k, (r k).refreshPending = false → ∃ j ≥ k, (r j).refreshPending = false ∧ (r j).cyclePending = false ∧
      (r j).turns = (r k).turns := by
    intro k hk
    cases hc : (r k).cyclePending
    · exact ⟨k, le_refl k, hk, hc, rfl⟩
    · have ht : (r k).turn = .interrupt .colourCycle := by simp [State.turn, hk, hc]
      have h1 := hr k
      unfold step at h1
      simp only [ht] at h1
      obtain ⟨a, b⟩ := ctick_pending h1
      exact ⟨k + 1, Nat.le_succ k, b.trans hk, a, hint k _ ht⟩
  cases hp : (r n).refreshPending
  · exact hcyc n hp
  · have ht : (r n).turn = .interrupt .refresh := by simp [State.turn, hp]
    have h1 := hr n
    unfold step at h1
    simp only [ht] at h1
    obtain ⟨j, hj, a, b, c⟩ := hcyc (n + 1) (rtick_pending h1).1
    exact ⟨j, Nat.le_of_succ_le hj, a, b, c.trans (hint n _ ht)⟩

/-- A mover able from `n` on, and named in the order of moves at hand, moves. -/
theorem Run.moves_of_named (hr : Run r) {m : Mover} (l : List Mover) (hml : m ∈ l) :
    ∀ n, (∀ k ≥ n, m ∈ (r k).movers) → (r n).turns = l → ∃ k ≥ n, (r k).turn = turnOf m := by
  induction l with
  | nil => cases hml
  | cons a l ih =>
    intro n hm hl
    obtain ⟨k, hk, h1, h2, h3⟩ := hr.settles n
    rcases moves_or_next (hr k) h1 h2 (hm k hk) with h | ⟨hne, hup⟩
    · exact ⟨k, hk, h⟩
    · rw [upcoming_cons (h3.trans hl), List.cons.injEq] at hup
      have hmem : m ∈ l := (List.mem_cons.1 hml).resolve_left fun e => hne (hup.1.symm.trans e.symm)
      obtain ⟨j, hj, h⟩ := ih hmem (k + 1) (fun i hi => hm i (by omega)) hup.2.symm
      exact ⟨j, by omega, h⟩

/-- Weak fairness (R162): a mover able to move from `n` on does move. -/
theorem Run.fair (hr : Run r) {m : Mover} : ∀ n, (∀ k ≥ n, m ∈ (r k).movers) → ∃ k ≥ n, (r k).turn = turnOf m := by
  suffices h : ∀ (l : List Mover) (n : Nat), (∀ k ≥ n, m ∈ (r k).movers) → (r n).turns = l →
      ∃ k ≥ n, (r k).turn = turnOf m from fun n hm => h _ n hm rfl
  intro l
  induction l with
  | nil =>
    intro n hm hl
    obtain ⟨k, hk, h1, h2, h3⟩ := hr.settles n
    rcases moves_or_next (hr k) h1 h2 (hm k hk) with h | ⟨hne, hup⟩
    · exact ⟨k, hk, h⟩
    · have hmem := mem_fairTurns (r k).draws m
      rw [← upcoming_nil (h3.trans hl), hup] at hmem
      obtain ⟨j, hj, h⟩ := hr.moves_of_named _ ((List.mem_cons.1 hmem).resolve_left fun e => hne e.symm) (k + 1)
        (fun i hi => hm i (by omega)) rfl
      exact ⟨j, by omega, h⟩
  | cons a l ih =>
    intro n hm hl
    obtain ⟨k, hk, h1, h2, h3⟩ := hr.settles n
    rcases moves_or_next (hr k) h1 h2 (hm k hk) with h | ⟨-, hup⟩
    · exact ⟨k, hk, h⟩
    · rw [upcoming_cons (h3.trans hl), List.cons.injEq] at hup
      obtain ⟨j, hj, h⟩ := ih (k + 1) (fun i hi => hm i (by omega)) hup.2.symm
      exact ⟨j, by omega, h⟩

/-! ### Runs exist -/

/-- An engine after INIT whose host sends no second INIT, which would be a precondition violation (R132, R152). -/
def State.Obeys (s : State) : Prop :=
  s.initialised = true ∧ ∀ w ∈ s.cmds, ∀ cc pol, decodeWord w ≠ .ok (.init cc pol)

/-- After INIT every operation but INIT completes, and takes at most its own word from the port. -/
theorem exec_completes {i : Instr} {s : State} (hi : s.initialised = true) (hn : ∀ cc pol, i ≠ .init cc pol) :
    ∃ t, exec i s = .next t ∧ t.initialised = true ∧ (t.cmds = s.cmds ∨ t.cmds = s.cmds.tail) := by
  cases i with
  | init cc pol => exact absurd rfl (hn cc pol)
  | rtick =>
    refine ⟨_, by simp only [exec, execRtick, returnFromInterrupt_refresh, advanceScan_eq, rowOutput_eq,
      takeInterrupt_refresh]; rfl, ?_⟩
    exact ⟨hi, .inl rfl⟩
  | ctick =>
    refine ⟨_, by simp only [exec, execCtick, takeInterrupt_colourCycle, cycleColour_eq]; rfl, ?_⟩
    exact ⟨hi, .inl rfl⟩
  | setframe =>
    refine ⟨_, whenInit_of hi _ _, ?_⟩
    rcases frameStep_cases s.beginCopy with ⟨-, he⟩ | ⟨-, he⟩
    · rw [he, State.exchange, beginCopy_eq]; exact ⟨hi, .inr rfl⟩
    · obtain ⟨ps, n, hp⟩ := tookPick_eq (s.beginCopy.copyCell s.beginCopy.nextCopy)
      rw [he, hp, copyCell_eq, beginCopy_eq]
      exact ⟨(writeCell_initialised _ _ _ _).trans hi, .inl (writeCell_cmds _ _ _ _)⟩
  | setpix x y d =>
    refine ⟨_, whenInit_of hi _ _, ?_⟩
    split
    · exact ⟨(writeCell_initialised _ _ _ _).trans hi, .inr (congrArg List.tail (writeCell_cmds _ _ _ _))⟩
    · exact ⟨hi, .inr rfl⟩
  | start => exact ⟨_, whenInit_of hi _ _, by rw [armIfNot_eq]; exact hi, .inr (by rw [armIfNot_eq]; rfl)⟩
  | stop => exact ⟨_, whenInit_of hi _ _, hi, .inr rfl⟩
  | setbri b => exact ⟨_, whenInit_of hi _ _, by split <;> exact ⟨hi, .inr rfl⟩⟩
  | getbri => exact ⟨_, whenInit_of hi _ _, hi, .inr rfl⟩
  | setcol v => exact ⟨_, whenInit_of hi _ _, by rw [storeColour_eq]; split <;> exact ⟨hi, .inr rfl⟩⟩
  | getcol => exact ⟨_, whenInit_of hi _ _, hi, .inr rfl⟩
  | setvar pol => exact ⟨_, whenInit_of hi _ _, hi, .inr rfl⟩
  | waitsync v => exact ⟨_, whenInit_of hi _ _, by split; exacts [⟨hi, .inr rfl⟩, ⟨hi, .inl rfl⟩]⟩
  | getpix x y => exact ⟨_, whenInit_of hi _ _, by split <;> exact ⟨hi, .inr rfl⟩⟩

theorem State.Obeys.of_cmds {s t : State} (h : s.Obeys) (hi : t.initialised = true)
    (hc : t.cmds = s.cmds ∨ t.cmds = s.cmds.tail) : t.Obeys := by
  refine ⟨hi, fun w hw => h.2 w ?_⟩
  rcases hc with hc | hc <;> rw [hc] at hw
  · exact hw
  · exact List.mem_of_mem_tail hw

/-- Such an engine has a next step, and stays such. -/
theorem State.Obeys.step {s : State} (h : s.Obeys) : ∃ t, step s = .next t ∧ t.Obeys := by
  have hs : s.settled.Obeys := by obtain ⟨ts, n, e⟩ := settled_eq s; rw [e]; exact h
  have run : ∀ {i : Instr} {u : State}, u.Obeys → (∀ cc pol, i ≠ .init cc pol) → ∃ t, exec i u = .next t ∧ t.Obeys := by
    intro i u hu hn
    obtain ⟨t, he, hi, hc⟩ := exec_completes hu.1 hn
    exact ⟨t, he, hu.of_cmds hi hc⟩
  unfold Machine.step
  split <;> rename_i ht
  · exact run h (by simp)
  · exact run h (by simp)
  · obtain ⟨w, ws, hc, hp⟩ := hostReady_atPort (turn_host ht)
    rw [State.hostStep, atPort_settled, hp]
    cases hd : decodeWord w with
    | ok i => exact run hs fun cc pol e => h.2 w (by simp [hc]) cc pol (e ▸ hd)
    | error e => exact ⟨_, rfl, hs.of_cmds hs.1 (.inr rfl)⟩
  · refine ⟨_, rfl, ?_⟩
    rw [countDwell_eq]; exact hs
  · refine ⟨_, rfl, ?_⟩
    rw [countCycle_eq]; exact hs
  · exact ⟨s, rfl, h⟩

/-- Such an engine has a run. -/
theorem State.Obeys.run {s : State} (h : s.Obeys) : ∃ r, Run r ∧ r 0 = s := by
  choose f hf using fun u : { u : State // u.Obeys } => u.2.step
  refine ⟨fun n => ((fun u => ⟨f u, (hf u).2⟩)^[n] ⟨s, h⟩ : { u : State // u.Obeys }).1, fun n => ?_, rfl⟩
  simp only [Function.iterate_succ_apply']
  exact (hf _).1

end Sys2Proof.Machine
end

