-- ==== Sys2Proof/Tests/Slice0.lean ====
section
/-! SUPPORT. The model's own tests: the WellFormed smoke, words written out from the formats, one or two small steps per
operation with results worked by hand from the spec, and for every statement that has hypotheses a witness that meets them. -/

namespace Sys2Proof.Tests

open Sys2Proof Sys2Proof.Machine

/-! ### Words (R55 to R60, and the worked examples of 40_ to 45_) -/

/-- The one ill-formed term there is: INIT with no channel (R57). -/
theorem test_wellFormed_refuses_no_channel : (Instr.init 0 1).wellFormed = false := by decide
theorem test_wellFormed_takes_channels :
    (Instr.init 1 0).wellFormed = true ∧ (Instr.init 2 0).wellFormed = true ∧ (Instr.init 3 1).wellFormed = true := by decide

theorem test_decode_init : decodeWord 0b0001_0000000000000000000000000_1_11 = .ok (.init 3 1) := by decide
theorem test_decode_start : decodeWord 0b0010_0000000000000000000000000000 = .ok .start := by decide
theorem test_decode_stop : decodeWord 0b0011_0000000000000000000000000000 = .ok .stop := by decide
theorem test_decode_setbri : decodeWord 0b0100_000000000000_0000000000010100 = .ok (.setbri 20) := by decide
theorem test_decode_getbri : decodeWord 0b0101_0000000000000000000000000000 = .ok .getbri := by decide
theorem test_decode_setcol : decodeWord 0b0110_000000000000_1111111111111101 = .ok (.setcol (-3)) := by decide
theorem test_decode_getcol : decodeWord 0b0111_0000000000000000000000000000 = .ok .getcol := by decide
theorem test_decode_setvar : decodeWord 0b1000_000000000000000000000000000_1 = .ok (.setvar 1) := by decide
theorem test_decode_setframe : decodeWord 0b1001_0000000000000000000000000000 = .ok .setframe := by decide
theorem test_decode_waitsync : decodeWord 0b1010_000000000000_0000000001100100 = .ok (.waitsync 100) := by decide
theorem test_decode_setpix : decodeWord 0b1011_1010_000000000010_000000000011 = .ok (.setpix 3 2 0xA) := by decide
theorem test_decode_getpix : decodeWord 0b1100_0000_000000000010_111111111111 = .ok (.getpix (-1) 2) := by decide
theorem test_decode_events : decode (.irq 0) = .ok .rtick ∧ decode (.irq 1) = .ok .ctick := by decide

/-- R65, one word for each reason. -/
theorem test_decode_rejects :
    decodeWord 0x00000000 = .error .reservedOpcode ∧ decodeWord 0xD0000000 = .error .reservedOpcode ∧
    decodeWord 0xE0000000 = .error .reservedOpcode ∧ decodeWord 0xFFFFFFFF = .error .reservedOpcode ∧
    decodeWord 0x20000001 = .error .mustBeZero ∧ decodeWord 0x40010000 = .error .mustBeZero ∧
    decodeWord 0x1000000B = .error .mustBeZero ∧ decodeWord 0x80000002 = .error .mustBeZero ∧
    decodeWord 0x10000000 = .error .channelCountZero ∧ decodeWord 0xC1000000 = .error .intensityNotZero := by decide

theorem test_encode_words :
    commandWord (.init 3 1) = 0x10000007 ∧ commandWord (.setbri (-1)) = 0x4000FFFF ∧
    commandWord (.setpix 3 2 0xA) = 0xBA002003 ∧ commandWord (.getpix (-1) 2) = 0xC0002FFF := by decide

theorem test_decodeTableWord :
    decodeTableWord 32 0x10000007 = some (.init 3 1) ∧ decodeTableWord 1 0 = some .rtick ∧
    decodeTableWord 8 1 = some .ctick ∧ decodeTableWord 32 0 = none := by decide

/-! ### Small states -/

/-- What a step or an operation answers, looked at. -/
def answers (o : Out) (p : State → Bool) : Bool :=
  match o with
  | .next t => p t
  | .fault _ => false
  | .refused _ => false

theorem exists_of_answers {o : Out} {p : State → Bool} (h : answers o p = true) : ∃ t, o = .next t ∧ p t = true := by
  cases o with
  | next t => exact ⟨t, rfl, h⟩
  | fault _ => cases h
  | refused _ => cases h

/-- An engine after `INIT 3, 0` with brightness 20 and colour 5, the word `w` at its port. -/
def ready (w : Word) : State :=
  { State.reset with
    initialised := true, cc := 3, bri := 20, col := 5, pub := .s0, pend := .s1, inuse := .s2, cmds := [w] }

/-- The same with the dwell timer expired, at a scan position. -/
def due (row : BitVec 4) (bp : BitVec 2) (run : Bool) : State :=
  { ready 0x20000000 with row := row, bp := bp, run := run, armed := true, pub := .s1, pend := .s0, inuse := .s0 }

/-- The same with the cycler expired at a colour. -/
def cycling (col : BitVec 3) (cc : BitVec 2) : State :=
  { ready 0x20000000 with col := col, cc := cc, cycRun := true }

/-- The same in the copy phase of a SETFRAME. -/
def copyingFrame (copied : List Nat) : State :=
  { ready 0x90000000 with hostOp := .copying, copied := copied, picks := [7] }

/-! ### One step of each operation -/

/-- 45_: `INIT 3, 1` after hardware reset. -/
theorem test_init : answers (step { State.reset with cmds := [0x10000007] }) (fun t =>
    t.initialised && t.cc = 3 && t.pol = 1 && t.d1 = 7 && t.d2 = 7 && t.pub = .s0 && t.pend = .s1 && t.inuse = .s2 &&
    t.responses = [0] && t.cmds = []) = true := by decide
/-- R132: a second INIT. -/
theorem test_init_twice : step (ready 0x10000003) = .fault (.preconditionViolation 0x10000003) := rfl

theorem test_start : answers (step (ready 0x20000000)) (fun t => t.run && t.armed && t.responses = [0] && t.trace.length = 1) = true := by
  decide
/-- 45_: the second START changes nothing and emits nothing. -/
theorem test_start_armed : answers (exec .start { ready 0x20000000 with run := true, armed := true, dwellCnt := 9 }) (fun t =>
    t.run && t.armed && t.dwellCnt = 9 && t.trace = []) = true := by decide

/-- R119: the timer is not cancelled. -/
theorem test_stop : answers (exec .stop (due 3 1 true)) (fun t => !t.run && t.armed && t.responses = [0]) = true := by decide
theorem test_stop_before_init : step { State.reset with cmds := [0x30000000] } =
    .fault (.preconditionViolation 0x30000000) := rfl

theorem test_setbri_63 : answers (step (ready 0x4000003F)) (fun t => t.bri = 63 && t.responses = [1]) = true := by decide
/-- `0xFFFF` is -1, not 65535. -/
theorem test_setbri_out : answers (step (ready 0x40000040)) (fun t => t.bri = 20 && t.responses = [0]) = true ∧
    answers (step (ready 0x4000FFFF)) (fun t => t.bri = 20 && t.responses = [0]) = true := by decide
theorem test_getbri : answers (step (ready 0x50000000)) (fun t => t.responses = [20]) = true := by decide

/-- 43_: `SETCOL 9 -> 0`, `SETCOL -3 -> 0` under three channels. -/
theorem test_setcol_out : answers (step (ready 0x60000009)) (fun t => t.col = 5 && t.responses = [0]) = true ∧
    answers (step (ready 0x6000FFFD)) (fun t => t.col = 5 && t.responses = [0]) = true := by decide
/-- R109: the sentinel starts the cycler; any other value stops it. -/
theorem test_setcol_sentinel : answers (step (ready 0x60000007)) (fun t =>
      t.col = 7 && t.cycRun && t.cycCnt = 60 && t.responses = [1]) = true ∧
    answers (exec (.setcol 0) (cycling 3 3)) (fun t => t.col = 0 && !t.cycRun && t.responses = [1]) = true := by decide
theorem test_getcol : answers (step (ready 0x70000000)) (fun t => t.responses = [5]) = true := by decide
/-- R123: the pins keep their levels. -/
theorem test_setvar : answers (step (ready 0x80000001)) (fun t => t.pol = 1 && t.d1 = 0 && t.responses = [0]) = true := by decide

/-- 42_: `SETPIX 3, 2, 0xA`, cell 2 * 128 + 3, and out of range. -/
theorem test_setpix : answers (step (ready 0xBA002003)) (fun t => t.stage = [(259, 10)] && t.responses = [0]) = true := by decide
theorem test_setpix_out : answers (step (ready 0xB5000080)) (fun t => t.stage = [] && t.responses = [0]) = true ∧
    answers (step (ready 0xB5020000)) (fun t => t.stage = []) = true := by decide
theorem test_getpix : answers (step { ready 0xC0002003 with stage := [(3, 1), (259, 10)] }) (fun t => t.responses = [10]) = true := by
  decide
theorem test_getpix_out : answers (step (ready 0xC0002FFF)) (fun t => t.responses = [0]) = true := by decide

/-- R100: with `INUSE = 2`, `PUB = 0` it waits; the wait ends with 1. -/
theorem test_waitsync_waits : answers (step (ready 0xA0000064)) (fun t =>
    t.hostOp = .waiting && t.responses = [] && t.cmds = [0xA0000064] && t.turn = .idle) = true := by decide
theorem test_waitsync_done : answers (exec (.waitsync 0) { ready 0xA0000000 with inuse := .s0, hostOp := .waiting }) (fun t =>
    t.hostOp = .idle && t.responses = [1] && t.cmds = []) = true := by decide

/-- R97: the copy of one cell, into the slot PEND names. -/
theorem test_setframe_copy : (copyingFrame [3]).copyCell 7 =
    { copyingFrame [3] with buf1 := [(7, (copyingFrame [3]).readCell .stage 7)], copied := [3, 7] } := rfl
/-- 42_: `PUB = 0, PEND = 1, INUSE = 0`; after the exchange `PUB = 1, PEND = 0`, not synced. -/
theorem test_setframe_exchange : (State.exchange { copyingFrame [] with inuse := .s0 }).pub = .s1 ∧
    (State.exchange { copyingFrame [] with inuse := .s0 }).pend = .s0 ∧
    (State.exchange { copyingFrame [] with inuse := .s0 }).synced = false := by decide

/-- 41_: the tick at `(15, 1)` goes to `(0, 2)`, does not adopt, and arms 2. -/
theorem test_rtick : answers (step (due 15 1 true)) (fun t =>
    t.row = 0 && t.bp = 2 && t.inuse = .s0 && t.armed && t.dwellCnt = 2 && t.oe && t.a = 15) = true := by decide +kernel
/-- 41_: the tick at `(15, 3)` adopts; stopped, it leaves the output disabled. -/
theorem test_rtick_boundary : answers (step (due 15 3 false)) (fun t =>
    t.row = 0 && t.bp = 0 && t.inuse = .s1 && !t.armed && !t.oe) = true := by decide +kernel
/-- 40_: column 0 of the worked example, `DATA(0b011, 0b000)`. -/
theorem test_row_levels :
    ({ ready 0 with buf0 := [(0, 2), (2048, 5)] }).columnLevels ⟨.s0, 0, 1, 2, 3, 0⟩ 0 = ⟨3, 0⟩ := by decide

/-- 44_: 7 to 1 and 6 to 1 under three channels; under one channel the sentinel stays. -/
theorem test_ctick : answers (step (cycling 7 3)) (fun t => t.col = 1 && t.cycCnt = 60) = true ∧
    answers (step (cycling 6 3)) (fun t => t.col = 1) = true := by decide
theorem test_ctick_one_channel : answers (step (cycling 1 1)) (fun t => t.col = 1 && t.cycRun) = true := by decide

/-- R108: three channels, every value. -/
theorem test_mask : ((List.range 8).map fun v => mask (BitVec.ofNat 3 v) 3) = [1, 2, 3, 4, 5, 6, 7, 0] := by decide
theorem test_mask_fewer : ((List.range 4).map fun v => mask (BitVec.ofNat 3 v) 2) = [1, 2, 3, 0] ∧
    ((List.range 2).map fun v => mask (BitVec.ofNat 3 v) 1) = [1, 0] := by decide

/-! ### Witnesses: states and operands that meet the hypotheses of each statement -/

/-- An engine `ready` with a command in flight, the timers as given. -/
def busy (w : Word) (op : HostOp) (copied : List Nat) : State :=
  { ready w with hostOp := op, copied := copied, picks := [0] }

/-- A frame whose cells all hold `v`. -/
@[irreducible] def uniform (v : Cell) : Memory := (List.range 4096).map fun c => (c, v)

theorem lookup_map_range' (v : Cell) (lo n c : Nat) (h : lo ≤ c ∧ c < lo + n) :
    Memory.lookup ((List.range' lo n).map fun c => (c, v)) c = some v := by
  induction n generalizing lo with
  | zero => omega
  | succ n ih =>
    rw [List.range'_succ, List.map_cons, Memory.lookup]
    split
    · rfl
    · exact ih (lo + 1) (by omega)

theorem risesFrom_map_range' (v : Cell) (lo n : Nat) :
    Memory.risesFrom lo ((List.range' lo n).map fun c => (c, v)) = true := by
  induction n generalizing lo with
  | zero => rfl
  | succ n ih =>
    rw [List.range'_succ, List.map_cons, Memory.risesFrom, ih]
    simp

theorem lookup_uniform (v : Cell) (c : Nat) (h : c < 4096) : (uniform v).lookup c = some v := by
  unfold uniform
  rw [List.range_eq_range']
  exact lookup_map_range' v 0 4096 c (by omega)

theorem wf_uniform (v : Cell) : (uniform v).wf = true := by
  unfold Memory.wf
  rw [Bool.and_eq_true]
  constructor
  · unfold uniform
    rw [List.range_eq_range']
    exact risesFrom_map_range' v 0 4096
  · rw [List.all_eq_true]
    intro e he
    unfold uniform at he
    obtain ⟨c, hc, rfl⟩ := List.mem_map.1 he
    exact decide_eq_true (List.mem_range.1 hc)

/-- The invariant of the small states: everything but the host's own fields is as in `ready`. -/
theorem inv_busy (w : Word) (op : HostOp) (copied : List Nat)
    (hc : copied.Pairwise (· < ·) ∧ ∀ c ∈ copied, c < 4096)
    (h1 : op = .copying → decodeWord w = .ok .setframe) (h2 : op = .waiting → ∃ t, decodeWord w = .ok (.waitsync t)) :
    (busy w op copied).Inv where
  memories sp := by
    cases sp with
    | stage => rfl
    | buf k => cases k <;> rfl
  copiedCells := hc
  panelLines := ⟨List.length_replicate, List.length_replicate⟩
  pulsesIdle := ⟨rfl, rfl⟩
  channels := (by decide : (3 : BitVec 2) ≠ 0)
  colourRange := (by decide : (5 : BitVec 3).toNat ≤ 2 ^ (3 : BitVec 2).toNat - 1)
  runArmed h := by cases h
  idleDark _ := rfl
  beforeInit h := by cases h
  roles _ := ⟨Slot.noConfusion, Slot.noConfusion, Slot.noConfusion⟩
  sentinel _ h := absurd h (by decide : ¬(5 : BitVec 3).toNat = 2 ^ (3 : BitVec 2).toNat - 1)
  cycling h := by cases h
  copying h := by rw [← h1 h]; rfl
  waiting h := by
    obtain ⟨t, ht⟩ := h2 h
    exact ⟨t, by rw [← ht]; rfl⟩

theorem inv_idle (w : Word) : (busy w .idle []).Inv :=
  inv_busy w .idle [] ⟨List.Pairwise.nil, fun _ h => nomatch h⟩ (fun h => nomatch h) (fun h => nomatch h)

/-! Steps, agents and encoding. -/

theorem witness_StepRunsDecodedInstruction :
    ((ready 0x30000000).turn = .host ∧ (ready 0x30000000).atPort = some (.ok .stop)) ∧
    ((ready 0).turn = .host ∧ (ready 0).atPort = some (.error .reservedOpcode)) ∧
    (due 0 0 true).turn = .interrupt .refresh ∧ (cycling 7 3).turn = .interrupt .colourCycle ∧
    State.reset.turn = .idle := by decide

theorem witness_PriorityOfPendingInterrupts :
    ({ cycling 7 3 with armed := true }).turn = .interrupt .refresh ∧
    ({ cycling 7 3 with armed := true, dwellCnt := 1 }).turn = .interrupt .colourCycle ∧
    (busy 0xA0000000 .waiting []).turn = .idle := by decide

theorem witness_AnyAbleMoverMayMove :
    let s := { ready 0x30000000 with armed := true, dwellCnt := 45, cycRun := true, cycCnt := 60 }
    s.refreshPending = false ∧ s.cyclePending = false ∧
      Mover.host ∈ s.movers ∧ Mover.dwellUnit ∈ s.movers ∧ Mover.cycUnit ∈ s.movers := by decide

/-- A run that begins with the timer armed, the cycler running and a SETFRAME in its copy phase. -/
theorem witness_EveryRunIsFair :
    ∃ r, Run r ∧ (r 0).Inv ∧ (r 0).armed = true ∧ (r 0).cycRun = true ∧ (r 0).cmds = [0x90000000] ∧
      (r 0).hostOp = .copying := by
  let s := { busy 0x90000000 .copying [] with armed := true, cycRun := true }
  have hs : s.Obeys := ⟨rfl, fun w hw cc pol h => by
    rw [List.mem_singleton.1 hw] at h
    have h' : Except.ok Instr.setframe = Except.ok (ε := Reject) (Instr.init cc pol) := h
    cases h'⟩
  obtain ⟨r, hr, h0⟩ := hs.run
  have h := inv_busy 0x90000000 .copying [] ⟨List.Pairwise.nil, fun _ h => nomatch h⟩ (fun _ => by decide) (fun h => nomatch h)
  have hi : s.Inv :=
    { h with
      runArmed := fun h => nomatch h
      idleDark := fun h => nomatch h
      beforeInit := fun h => nomatch h
      sentinel := fun _ _ => rfl
      cycling := fun _ => (by decide : (5 : BitVec 3) ≠ 0) }
  exact ⟨r, hr, by rw [h0]; exact hi, by rw [h0], by rw [h0], by rw [h0]; rfl, by rw [h0]; rfl⟩

theorem witness_TimerUnitCountsDown :
    ({ State.reset with armed := true, dwellCnt := 1 }).turn = .dwellUnit ∧
    ({ State.reset with cycRun := true, cycCnt := 60 }).turn = .cycUnit := by decide

theorem witness_PlacedInstructionRunsNext : decodeWord 0x20000000 = .ok .start := by decide
theorem witness_DecodeOfEncodeIsIdentity : (Instr.init 3 1).wellFormed = true := by decide
theorem witness_EncodeOfDecodeIsIdentity : decode (.command 0x10000007) = .ok (.init 3 1) := by decide

theorem witness_ReservedWordsAreRejected :
    (Safety.Reserved 0 ∧ (ready 0).turn = .host ∧ (ready 0).cmds = [0]) ∧
    Safety.Reserved 0xD0000000 ∧ Safety.Reserved 0x20000001 ∧ Safety.Reserved 0x40010000 ∧ Safety.Reserved 0x1000000B ∧
    Safety.Reserved 0x80000002 ∧ Safety.Reserved 0x10000000 ∧ Safety.Reserved 0xC1000000 ∧
    ¬Safety.Reserved 0xC0FFFFFF := by
  refine ⟨⟨?_, by decide, rfl⟩, ?_, ?_, ?_, ?_, ?_, ?_, ?_, ?_⟩ <;> (unfold Safety.Reserved; decide)

/-! Control commands. -/

theorem witness_InitEstablishesTheState :
    (1 : BitVec 2) ≠ 0 ∧ (3 : BitVec 2) ≠ 0 ∧ State.reset.initialised = false ∧ (ready 0).initialised = true := by decide
theorem witness_InitialColourIsInRange : (1 : BitVec 2) ≠ 0 ∧ (2 : BitVec 2) ≠ 0 ∧ (3 : BitVec 2) ≠ 0 := by decide
theorem witness_StartArmsTheFirstExpiry :
    ((ready 0).initialised = true ∧ (ready 0).armed = false) ∧
    ((due 0 0 false).initialised = true ∧ (due 0 0 false).armed = true) := by decide
theorem witness_StopClearsRunOnly : (ready 0).initialised = true := by decide
theorem witness_NeedsInit : State.reset.initialised = false := by decide

theorem witness_SetBrightnessChecksItsRange : (ready 0).initialised = true ∧
    (0 ≤ (0 : BitVec 16).toInt ∧ (0 : BitVec 16).toInt ≤ 63) ∧ (0 ≤ (63 : BitVec 16).toInt ∧ (63 : BitVec 16).toInt ≤ 63) ∧
    (0xFFFF : BitVec 16).toInt < 0 ∧ 63 < (64 : BitVec 16).toInt := by decide

/-- A state whose next step changes BRI. -/
theorem witness_GetBrightnessReads : (ready 0).initialised = true ∧
    (∃ t, exec (.init 3 0) State.reset = .next t) ∧
    ∃ t, step (ready 0x4000003F) = .next t ∧ t.bri ≠ (ready 0x4000003F).bri :=
  ⟨rfl, ⟨_, rfl⟩, _, rfl, by decide⟩

theorem witness_SetVariantStoresPolarity : (ready 0).initialised = true := by decide

/-! Colour. -/

theorem witness_SetColourChecksItsRange : (ready 0).initialised = true ∧
    (7 : BitVec 16).toInt = 2 ^ (ready 0).cc.toNat - 1 ∧
    (0 ≤ (0 : BitVec 16).toInt ∧ (0 : BitVec 16).toInt < 2 ^ (ready 0).cc.toNat - 1) ∧
    (0 ≤ (6 : BitVec 16).toInt ∧ (6 : BitVec 16).toInt < 2 ^ (ready 0).cc.toNat - 1) ∧
    (0xFFFF : BitVec 16).toInt < 0 ∧ 2 ^ (ready 0).cc.toNat - 1 < (8 : BitVec 16).toInt := by decide

theorem witness_GetColourReads : (ready 0).initialised = true ∧
    0 ≤ (7 : BitVec 16).toInt ∧ (7 : BitVec 16).toInt ≤ 2 ^ (ready 0).cc.toNat - 1 ∧ ∃ t, exec (.setcol 7) (ready 0) = .next t :=
  ⟨rfl, by decide, by decide, _, rfl⟩

theorem witness_MaskOfEveryColour : (3 : BitVec 2) ≠ 0 ∧ (7 : BitVec 3).toNat ≤ 2 ^ (3 : BitVec 2).toNat - 1 ∧
    (0 : BitVec 3).toNat ≤ 2 ^ (1 : BitVec 2).toNat - 1 := by decide

/-- The cycler off; running over an empty range; inside the range, at its top, and at the sentinel. -/
theorem witness_ColourTickAdvances : (cycling 7 3).turn = .interrupt .colourCycle ∧ (ready 0).cycRun = false ∧
    ((cycling 1 1).cycRun = true ∧ 2 ^ (cycling 1 1).cc.toNat - 2 < 1) ∧
    ((cycling 1 3).cycRun = true ∧ 1 ≤ (cycling 1 3).col.toNat ∧ (cycling 1 3).col.toNat < 2 ^ (cycling 1 3).cc.toNat - 2) ∧
    ¬(cycling 6 3).col.toNat < 2 ^ (cycling 6 3).cc.toNat - 2 ∧ 1 ≤ 2 ^ (cycling 7 3).cc.toNat - 2 := by decide

/-- A step that changes the colour while the cycler is stopped, and one that starts the cycler. -/
theorem witness_ManualColourIsKept :
    (∃ t, step (ready 0x60000000) = .next t ∧ (ready 0x60000000).cycRun = false ∧ t.col ≠ (ready 0x60000000).col) ∧
    ∃ t, step (ready 0x60000007) = .next t ∧ t.cycRun ≠ (ready 0x60000007).cycRun :=
  ⟨⟨_, rfl, rfl, by decide⟩, _, rfl, by decide⟩

/-! Frame content. -/

/-- Both corners, and one step out on each side. -/
theorem witness_SetPixelWritesOneCell : (ready 0).initialised = true ∧
    (0 ≤ (127 : BitVec 12).toInt ∧ (127 : BitVec 12).toInt < 128 ∧ 0 ≤ (31 : BitVec 12).toInt ∧ (31 : BitVec 12).toInt < 32) ∧
    ¬(128 : BitVec 12).toInt < 128 ∧ ¬0 ≤ (0xFFF : BitVec 12).toInt ∧ ¬(32 : BitVec 12).toInt < 32 := by decide
theorem witness_GetPixelReadsOneCell : (ready 0).initialised = true := by decide

/-- A state that differs from the one the SETPIX left at other coordinates; the corner cells; a SETPIX to the same cell. -/
theorem witness_PixelRoundTrip :
    (∃ t, exec (.setpix 127 31 9) (ready 0) = .next t ∧ hostCell 127 31 = some 4095 ∧
      { t with stage := [(0, 1), (4095, 9)] }.initialised = true ∧
      { t with stage := [(0, 1), (4095, 9)] }.readCell .stage 4095 = t.readCell .stage 4095) ∧
    (hostCell 127 31 = some 4095 ∧ hostCell 0 0 = some 0 ∧ hostCell 128 0 = none ∧ hostCell 0 0xFFF = none) ∧
    ∃ v, step { ready 0xB2000000 with stage := [(0, 1)] } = .next v ∧ hostCell 0 0 = some 0 ∧
      v.readCell .stage 0 ≠ State.readCell { ready 0xB2000000 with stage := [(0, 1)] } .stage 0 :=
  ⟨⟨_, rfl, by decide, rfl, rfl⟩, by decide, _, rfl, by decide, by decide⟩

/-! The buffer synchronizer. -/

theorem uncopied_nil_ne : uncopied [] ≠ [] :=
  uncopied_ne_nil List.Pairwise.nil (fun _ h => nomatch h) (by decide)

/-- Every cell number, kept folded. -/
@[irreducible] def allCells : List Nat := List.range 4096

theorem mem_allCells {c : Nat} : c ∈ allCells ↔ c < 4096 := by
  unfold allCells
  exact List.mem_range

theorem pairwise_allCells : allCells.Pairwise (· < ·) := by
  unfold allCells
  exact List.pairwise_lt_range

theorem uncopied_all : uncopied allCells = [] := by
  apply List.eq_nil_iff_forall_not_mem.2
  intro c hc
  have h := mem_uncopied.1 hc
  exact h.2 (mem_allCells.2 h.1)

theorem witness_SetFrameCopiesOneCell : (ready 0x90000000).initialised = true ∧
    [] = (if (ready 0x90000000).hostOp = .copying then (ready 0x90000000).copied else []) ∧ uncopied [] ≠ [] :=
  ⟨rfl, rfl, uncopied_nil_ne⟩
/-- In the copy phase, and before it. -/
theorem witness_SetFrameOrderIsFree :
    (let s := busy 0x90000000 .copying [0]
     s.initialised = true ∧ [0] = (if s.hostOp = .copying then s.copied else []) ∧ 4095 < 4096 ∧ 4095 ∉ [0]) ∧
    (let s := busy 0x90000000 .idle [0]
     s.initialised = true ∧ [] = (if s.hostOp = .copying then s.copied else []) ∧ 0 < 4096 ∧ 0 ∉ ([] : List Nat)) := by decide
theorem witness_SetFrameExchanges : (busy 0x90000000 .copying allCells).initialised = true ∧
    (busy 0x90000000 .copying allCells).hostOp = .copying ∧
    ∀ c < 4096, c ∈ (busy 0x90000000 .copying allCells).copied :=
  ⟨rfl, rfl, fun _ h => mem_allCells.2 h⟩
theorem witness_SetFrameTakes4097Steps : (ready 0x90000000).initialised = true ∧ (ready 0x90000000).hostOp ≠ .copying := by decide

/-- A SETFRAME with every cell copied, the written slot and the staging frame uniform: its next step is the exchange. -/
def filled : State := { busy 0x90000000 .copying allCells with buf1 := uniform 9, stage := uniform 9 }

theorem inv_filled : filled.Inv :=
  have h := inv_busy 0x90000000 .copying allCells
    ⟨pairwise_allCells, fun _ hc => mem_allCells.1 hc⟩ (fun _ => by decide) (fun h => nomatch h)
  { h with
    memories := fun sp => by
      cases sp with
      | stage => exact wf_uniform 9
      | buf k =>
        cases k
        · rfl
        · exact wf_uniform 9
        · rfl }

theorem witness_PublishedFrameIsComplete :
    filled.Inv ∧ filled.CopyAgrees ∧ ∃ t, step filled = .next t ∧ filled.hostOp = .copying ∧ t.hostOp ≠ .copying := by
  refine ⟨inv_filled, ?_, filled.exchange, ?_, rfl, by decide⟩
  · intro _ c hc
    have hc := mem_allCells.1 hc
    show ((uniform 9).lookup c).getD _ = ((uniform 9).lookup c).getD _
    rw [lookup_uniform 9 c hc]
    rfl
  · have hu : uncopied filled.copied = [] := uncopied_all
    show filled.whenInit .setframe filled.beginCopy.frameStep = _
    have hb : filled.beginCopy = filled := rfl
    rw [hb, State.frameStep, hu]
    rfl

theorem witness_WaitSyncWaitsForAdoption : (ready 0).initialised = true ∧ (ready 0).inuse ≠ (ready 0).pub ∧
    ({ ready 0 with inuse := .s0 }).inuse = ({ ready 0 with inuse := .s0 }).pub := by decide
theorem witness_HungHostStaysHung : (busy 0xA0000000 .waiting []).Hung := by
  unfold State.Hung
  decide

theorem witness_DisciplineAvoidsTearing :
    ({ ready 0 with inuse := .s0 }.inuse = { ready 0 with inuse := .s0 }.pub ∧ (ready 0).pub ≠ (ready 0).pend) ∧
    (filled.Inv ∧ filled.TearFree ∧ filled.hostOp = .copying ∧ ∃ t, step filled = .next t) ∧
    (busy 0x90000000 .idle []).Inv ∧ (busy 0x90000000 .idle []).TearFree ∧ (busy 0x90000000 .idle []).hostOp = .idle ∧
      ∃ t, step (busy 0x90000000 .idle []) = .next t ∧ t.hostOp = .copying :=
  ⟨by decide, ⟨inv_filled, ⟨by decide, by decide⟩, rfl, witness_PublishedFrameIsComplete.2.2.imp fun _ h => h.1⟩,
    inv_idle _, ⟨by decide, by decide⟩, rfl,
    (exists_of_answers (p := fun t => t.hostOp = .copying) (by decide +kernel)).imp fun _ h => ⟨h.1, of_decide_eq_true h.2⟩⟩

theorem witness_PublishTwiceHazard :
    (({ busy 0x90000000 .copying [] with inuse := .s1 }).pend = ({ busy 0x90000000 .copying [] with inuse := .s1 }).inuse ∧
      uncopied ({ busy 0x90000000 .copying [] with inuse := .s1 }).copied ≠ []) ∧
    uncopied (busy 0x90000000 .copying allCells).copied = [] :=
  ⟨⟨rfl, uncopied_nil_ne⟩, uncopied_all⟩

/-! The refresh tick. -/

theorem witness_RefreshTick : (due 0 0 true).sr.length = 128 ∧ (due 0 0 true).turn = .interrupt .refresh :=
  ⟨List.length_replicate, rfl⟩
theorem witness_OnlyTheBoundaryTickAdopts : (due 15 3 true).initialised = true ∧
    ∃ t, step (due 15 3 true) = .next t ∧ t.inuse ≠ (due 15 3 true).inuse :=
  ⟨rfl, (exists_of_answers (p := fun t => t.inuse = .s1) (by decide +kernel)).imp fun _ h =>
    ⟨h.1, fun e => nomatch (of_decide_eq_true h.2).symm.trans e⟩⟩
theorem witness_TickRearmsOrStops : (due 0 0 true).run = true ∧ (due 0 0 false).run = false := by decide
theorem witness_UniformFrames (v : Cell) :
    ∀ c < 4096, State.readCell { ready 0 with buf2 := uniform v } (.buf (ready 0).inuse) c = v := by
  intro c hc
  show ((uniform v).lookup c).getD _ = v
  rw [lookup_uniform v c hc]
  rfl
theorem witness_PanelShowsThePass : (due 0 0 true).sr.length = 128 ∧ (due 0 0 true).run = true :=
  ⟨List.length_replicate, rfl⟩
theorem witness_FrameVisitsEveryPassOnce : (due 0 0 true).pc = 0 := by decide
theorem witness_FrameDwells : (due 0 0 true).pc = 0 ∧ (due 0 0 true).run = true := by decide
theorem witness_StopTakesOneMoreTick : (due 0 0 false).run = false ∧
    ∃ t, step (ready 0x20000000) = .next t ∧ (ready 0x20000000).armed = false ∧ t.armed = true :=
  ⟨rfl, _, rfl, rfl, rfl⟩

/-! Whole-machine rules. -/

theorem witness_EveryStepKeepsInvariant : (busy 0x20000000 .idle []).Inv ∧ ∃ t, step (busy 0x20000000 .idle []) = .next t :=
  ⟨inv_idle _, _, rfl⟩
theorem witness_RunImpliesArmed :
    ((due 0 0 true).run = true → (due 0 0 true).armed = true) ∧ (∃ t, step (due 0 0 true) = .next t ∧ t.run = true) ∧
    (due 0 0 true).initialised = true :=
  ⟨fun _ => rfl, exists_of_answers (p := fun t => t.run) (by decide +kernel), rfl⟩
theorem witness_RolesAfterInit : (∃ t, exec (.init 1 0) State.reset = .next t) ∧
    (busy 0x20000000 .idle []).Inv ∧ (busy 0x20000000 .idle []).initialised = true ∧ ∃ t, step (busy 0x20000000 .idle []) = .next t :=
  ⟨⟨_, rfl⟩, inv_idle _, rfl, _, rfl⟩

/-- A SETPIX that changes a cell of `stage`, and a SETFRAME copy that changes one of slot PEND. -/
theorem witness_OnlyTwoCommandsWriteMemory :
    (∃ t, step { ready 0xB2000000 with stage := [(0, 1)] } = .next t ∧
      t.readCell .stage 0 ≠ State.readCell { ready 0xB2000000 with stage := [(0, 1)] } .stage 0) ∧
    ∃ t, exec .setframe { busy 0x90000000 .copying [] with stage := [(0, 1)], buf1 := [(0, 2)] } = .next t ∧
      t.readCell (.buf .s1) 0 ≠
        State.readCell { busy 0x90000000 .copying [] with stage := [(0, 1)], buf1 := [(0, 2)] } (.buf .s1) 0 := by
  refine ⟨⟨_, rfl, by decide⟩, ?_⟩
  exact (exists_of_answers (p := fun t => t.readCell (.buf .s1) 0 != 2) (by decide +kernel)).imp fun _ h =>
    ⟨h.1, bne_iff_ne.1 h.2⟩

theorem witness_OtherOperationsWriteNoCell : ∃ t, exec .start (ready 0) = .next t := ⟨_, rfl⟩
theorem witness_OperationsKeepMemoryCanonical : (∀ sp, Memory.wf (filled.cellsOf sp) = true) ∧ ∃ t, exec .start filled = .next t :=
  ⟨inv_filled.memories, _, rfl⟩
theorem witness_HostCannotReadTheFrameStore : Safety.isCommand .setframe = true ∧
    (ready 0).SameButFrames { ready 0 with buf2 := [(0, 1)] } ∧ (∃ t, exec .setframe (ready 0) = .next t) ∧
    ∃ f, exec .setframe State.reset = .fault f :=
  ⟨rfl, rfl, ⟨(ready 0).beginCopy.frameStep, rfl⟩, .preconditionViolation 0x90000000, rfl⟩
theorem witness_ObservationChangesNothing : ∃ t, step (due 0 0 true) = .next t :=
  (exists_of_answers (p := fun _ => true) (by decide +kernel)).imp fun _ h => h.1
theorem witness_QuiescentIsDark : (busy 0x20000000 .idle []).Inv ∧ (busy 0x20000000 .idle []).hostOp = .idle ∧
    (busy 0x20000000 .idle []).armed = false ∧ (busy 0x20000000 .idle []).cycRun = false :=
  ⟨inv_idle _, rfl, rfl, rfl⟩

end Sys2Proof.Tests
end

section

namespace Sys2Proof.Machine

/-- Settles O14: the reduction modulo `2^CC − 1` leaves COLOUR_INIT strictly below the sentinel (`colourInit_toNat`). -/
theorem initialColourIsInRange : Obligations.InitialColourIsInRange := by
  intro cc hcc
  have hlt : (colourInit cc).toNat < 2 ^ cc.toNat - 1 := colourInit_toNat hcc
  omega

end Sys2Proof.Machine
end

section
/-! SUPPORT. The refresh tick and the colour tick, each as one record. -/

namespace Sys2Proof.Machine

/-- The refresh tick, in one record (R84 to R90): what it shifts and emits is what the rules give for the state it samples
on entry. -/
theorem exec_rtick (s : State) :
    exec .rtick s = .next
      { s with
        armed := s.run
        dwellCnt := if s.run then Config.sched s.bp else s.dwellCnt
        row := s.row + 1
        bp := if s.row = 15 then s.bp + 1 else s.bp
        inuse := if s.row = 15 ∧ s.bp = 3 then s.pub else s.inuse
        d1 := (s.tickLevels 127).d1
        d2 := (s.tickLevels 127).d2
        clk := false
        lat := false
        oe := s.run
        a := s.row
        sr := (s.sr ++ s.tickLine).drop 128
        latched := (s.sr ++ s.tickLine).drop 128
        lrow := s.row
        trace := s.trace ++ s.tickEvents } := by
  have hlevels : ({ s with armed := false } : State).columnLevels s.rowInputs = s.tickLevels :=
    funext (columnLevels_eq s)
  have hevents : eventsOfColumn { s with armed := false } s.rowInputs = s.columnEvents :=
    funext (eventsOfColumn_eq s)
  simp only [exec, execRtick, takeInterrupt_refresh, rowOutput_eq, advanceScan_eq, returnFromInterrupt_refresh, hlevels,
    hevents, Bool.or_false, Bool.and_true, State.tickEvents, State.rowEvents, State.tickLine, List.append_assoc]
  cases s.run <;> rfl

/-- The colour tick, in one record (R113). -/
theorem exec_ctick (s : State) :
    exec .ctick s = .next
      { s with cycCnt := 60, col := if s.cycRun then nextColour s.col s.cc else s.col } := by
  simp only [exec, execCtick, takeInterrupt_colourCycle, cycleColour_eq]
  rfl

end Sys2Proof.Machine
end

section
/-! SUPPORT. The engine's invariant, one lemma an update of the state; then what every operation and every step keep. -/

namespace Sys2Proof.Machine

variable {s t : State}

/-! ### The updates of the state -/

/-- An answered command leaves no copy and no wait behind (R61). -/
theorem State.Inv.respond (h : s.Inv) (hidle : s.hostOp = .idle) (r : Word) : (s.respond r).Inv :=
  { h with
    copying := fun hc => absurd (hidle.symm.trans hc) nofun
    waiting := fun hw => absurd (hidle.symm.trans hw) nofun }

theorem State.Inv.settled (h : s.Inv) : s.settled.Inv := by
  obtain ⟨ts, n, hs⟩ := settled_eq s
  rw [hs]
  exact { h with }

theorem State.Inv.tookPick (h : s.Inv) : s.tookPick.Inv := by
  obtain ⟨ps, n, hs⟩ := tookPick_eq s
  rw [hs]
  exact { h with }

theorem State.Inv.countDwell (h : s.Inv) : s.countDwell.Inv := by
  rw [countDwell_eq]
  exact { h with }

theorem State.Inv.countCycle (h : s.Inv) : s.countCycle.Inv := by
  rw [countCycle_eq]
  exact { h with }

/-- A write of a cell that exists touches no register (R41). -/
theorem State.Inv.writeCell (h : s.Inv) (sp : Space) {c : Nat} (hc : c < 4096) (v : Cell) : (s.writeCell sp c v).Inv := by
  have hwf := writeCell_wf s sp v hc h.memories
  rcases sp with (_ | _ | _) | _ <;> exact { h with memories := hwf }

theorem State.Inv.copyCell (h : s.Inv) {c : Nat} (hc : c < 4096) : (s.copyCell c).Inv := by
  rw [copyCell_eq]
  exact { h.writeCell (.buf s.pend) hc (s.readCell .stage c) with
    copiedCells := ⟨addCopied_pairwise h.copiedCells.1 c, fun d hd =>
      (mem_addCopied.1 hd).elim (fun e => e ▸ hc) (h.copiedCells.2 d)⟩ }

/-- A copy begins only for a SETFRAME at the port, after INIT (R96). -/
theorem State.Inv.beginCopy (h : s.Inv) (hinit : s.initialised = true) (hport : s.atPort = some (.ok .setframe)) :
    s.beginCopy.Inv := by
  unfold State.beginCopy
  split
  · exact h
  · exact { h with
      copiedCells := ⟨.nil, nofun⟩
      beforeInit := fun h0 => absurd (hinit.symm.trans h0) nofun
      copying := fun _ => hport
      waiting := nofun }

/-- The exchange keeps the roles apart (R98). -/
theorem State.Inv.exchange (h : s.Inv) (hinit : s.initialised = true) : s.exchange.Inv := by
  obtain ⟨hne, hpub, hpend⟩ := h.roles hinit
  have hswap : ({ s with pub := s.pend, pend := s.pub, hostOp := .idle } : State).Inv :=
    { h with
      beforeInit := fun h0 => absurd (hinit.symm.trans h0) nofun
      roles := fun _ => ⟨hne.symm, hpend, hpub⟩
      copying := nofun
      waiting := nofun }
  exact hswap.respond rfl 0

theorem State.Inv.frameStep (h : s.Inv) (hinit : s.initialised = true) : s.frameStep.Inv := by
  rcases frameStep_cases s with ⟨-, he⟩ | ⟨hmem, he⟩
  · rw [he]
    exact h.exchange hinit
  · rw [he]
    exact (h.copyCell (mem_uncopied.1 hmem).1).tookPick

/-- What INIT establishes meets the invariant (R117, D26). -/
theorem State.Inv.initialise (h : s.Inv) {cc : BitVec 2} (hcc : cc ≠ 0) (pol : BitVec 1) : (s.initialise cc pol).Inv :=
  have hcol := colourInit_toNat hcc
  { h with
    copiedCells := ⟨.nil, nofun⟩
    pulsesIdle := ⟨rfl, rfl⟩
    channels := hcc
    colourRange := hcol.le
    runArmed := nofun
    idleDark := fun _ => rfl
    beforeInit := nofun
    roles := fun _ => ⟨nofun, nofun, nofun⟩
    sentinel := fun _ hs => absurd hs hcol.ne
    cycling := nofun
    copying := nofun
    waiting := nofun }

/-- With a channel to show, the sentinel is not 0 (R20, R22). -/
theorem colMax_pos {cc : BitVec 2} (h : cc ≠ 0) : 0 < colMax cc := by
  revert cc
  decide

/-- A legal colour starts the cycler exactly when it is the sentinel, which is not 0 (R109). -/
theorem State.Inv.storeColour (h : s.Inv) (hinit : s.initialised = true) {v : BitVec 16}
    (hv : colourLegal v s.cc = true) : (s.storeColour v).Inv := by
  have hcast := colMax_cast s.cc
  have hval : ((v.setWidth 3).toNat : Int) = sext16 v := colour_toNat hv
  have hmax : sext16 v ≤ colMax s.cc := hcast ▸ ((colourLegal_iff v s.cc).1 hv).2
  have hpos := colMax_pos h.channels
  rw [storeColour_eq]
  exact { h with
    colourRange := show (v.setWidth 3).toNat ≤ colMax s.cc by omega
    beforeInit := fun h0 => absurd (hinit.symm.trans h0) nofun
    sentinel := fun _ hs => decide_eq_true (by
      have hs : (v.setWidth 3).toNat = colMax s.cc := hs
      omega)
    cycling := fun hrun h0 => by
      have hs : sext16 v = colMax s.cc := of_decide_eq_true hrun
      have h0 : v.setWidth 3 = 0 := h0
      rw [h0] at hval
      simp only [BitVec.ofNat_eq_ofNat, BitVec.toNat_ofNat] at hval
      omega }

/-! ### The operations -/

/-- The refresh tick meets the invariant again, in every state that meets it (R89, R163). -/
theorem State.Inv.rtick (h : s.Inv) (he : exec .rtick s = .next t) : t.Inv := by
  have hlen : ((s.sr ++ s.tickLine).drop 128).length = 128 := by
    simp [h.panelLines.1, State.tickLine]
  rw [exec_rtick, Host.Outcome.next.injEq] at he
  subst he
  exact { h with
    panelLines := ⟨hlen, hlen⟩
    pulsesIdle := ⟨rfl, rfl⟩
    runArmed := id
    idleDark := id
    beforeInit := fun h0 =>
      have ⟨hrun, _, hcyc, hop⟩ := h.beforeInit h0
      ⟨hrun, hrun, hcyc, hop⟩ }

/-- The colour tick keeps COL in its range and off 0 (R114). -/
theorem State.Inv.ctick (h : s.Inv) (he : exec .ctick s = .next t) : t.Inv := by
  rw [exec_ctick, Host.Outcome.next.injEq] at he
  subst he
  by_cases hrun : s.cycRun = true
  · obtain ⟨hle, hne⟩ := nextColour_range s.col s.cc h.colourRange (h.cycling hrun)
    rw [if_pos hrun]
    exact { h with
      colourRange := hle
      sentinel := fun _ _ => hrun
      cycling := fun _ => hne }
  · rw [if_neg hrun]
    exact { h with }

/-- While a copy or a wait is in progress, the port holds its command and no other (R54). -/
theorem State.Inv.hostOp_idle (h : s.Inv) {r : Except Reject Instr} (hport : s.atPort = some r) (hframe : r ≠ .ok .setframe)
    (hwait : ∀ v, r ≠ .ok (.waitsync v)) : s.hostOp = .idle := by
  cases hop : s.hostOp with
  | idle => rfl
  | copying => exact absurd (Option.some.inj (hport.symm.trans (h.copying hop))) hframe
  | waiting =>
    obtain ⟨v, hv⟩ := h.waiting hop
    exact absurd (Option.some.inj (hport.symm.trans hv)) (hwait v)

/-- Every operation keeps the invariant: an event in any state, a command when it is the one at the port. -/
theorem State.Inv.exec {i : Instr} (h : s.Inv) (hport : s.atPort = some (.ok i)) (he : exec i s = .next t) : t.Inv := by
  have hidle := h.hostOp_idle hport
  cases i with
  | rtick => exact h.rtick he
  | ctick => exact h.ctick he
  | init cc pol =>
    replace hidle := hidle nofun nofun
    simp only [Machine.exec, execInit] at he
    split at he
    · cases he
      exact h.respond hidle errorWord
    · split at he
      · cases he
      · cases he
        exact (h.initialise ‹_› pol).respond rfl 0
  | start =>
    obtain ⟨hinit, rfl⟩ := whenInit_next.1 he
    have harm : ({ s with run := true } : State).armIfNot.Inv := by
      rw [armIfNot_eq]
      exact { h with
        runArmed := fun _ => rfl
        idleDark := nofun
        beforeInit := fun h0 => absurd (hinit.symm.trans h0) nofun }
    exact harm.respond (by rw [armIfNot_eq]; exact hidle nofun nofun) 0
  | stop =>
    obtain ⟨hinit, rfl⟩ := whenInit_next.1 he
    have hstop : ({ s with run := false } : State).Inv :=
      { h with
        runArmed := nofun
        beforeInit := fun h0 => absurd (hinit.symm.trans h0) nofun }
    exact hstop.respond (hidle nofun nofun) 0
  | setbri b =>
    obtain ⟨-, rfl⟩ := whenInit_next.1 he
    have hbri : ({ s with bri := b.setWidth 6 } : State).Inv := { h with }
    split
    · exact hbri.respond (hidle nofun nofun) _
    · exact h.respond (hidle nofun nofun) _
  | getbri | getcol =>
    obtain ⟨-, rfl⟩ := whenInit_next.1 he
    exact h.respond (hidle nofun nofun) _
  | setcol v =>
    obtain ⟨hinit, rfl⟩ := whenInit_next.1 he
    split
    · exact (h.storeColour hinit ‹_›).respond (by rw [storeColour_eq]; exact hidle nofun nofun) _
    · exact h.respond (hidle nofun nofun) _
  | setvar pol =>
    obtain ⟨-, rfl⟩ := whenInit_next.1 he
    have hpol : ({ s with pol := pol } : State).Inv := { h with }
    exact hpol.respond (hidle nofun nofun) 0
  | setframe =>
    obtain ⟨hinit, ht⟩ := whenInit_next.1 he
    rw [ht]
    exact (h.beginCopy hinit hport).frameStep (by rw [beginCopy_eq]; exact hinit)
  | waitsync v =>
    obtain ⟨hinit, rfl⟩ := whenInit_next.1 he
    have hop : ∀ op, op ≠ HostOp.copying → ({ s with hostOp := op } : State).Inv := fun op hne =>
      { h with
        beforeInit := fun h0 => absurd (hinit.symm.trans h0) nofun
        copying := fun hc => absurd hc hne
        waiting := fun _ => ⟨v, hport⟩ }
    split
    · exact (hop .idle nofun).respond rfl _
    · exact hop .waiting nofun
  | setpix x y d =>
    obtain ⟨-, rfl⟩ := whenInit_next.1 he
    split
    · exact (h.writeCell .stage (hostCell_lt ‹_›) d).respond (by rw [writeCell_hostOp]; exact hidle nofun nofun) 0
    · exact h.respond (hidle nofun nofun) 0
  | getpix x y =>
    obtain ⟨-, rfl⟩ := whenInit_next.1 he
    split
    · exact h.respond (hidle nofun nofun) _
    · exact h.respond (hidle nofun nofun) 0

/-- Every step keeps the invariant. -/
theorem State.Inv.step (h : s.Inv) (hstep : step s = .next t) : t.Inv := by
  rcases step_cases hstep with ⟨-, he⟩ | ⟨-, he⟩ | ⟨-, i, hp, he⟩ | ⟨-, e, hp, rfl⟩ | ⟨-, rfl⟩ | ⟨-, rfl⟩ | ⟨-, rfl⟩
  · exact h.rtick he
  · exact h.ctick he
  · exact h.settled.exec ((atPort_settled s).trans hp) he
  · exact h.settled.respond (h.settled.hostOp_idle ((atPort_settled s).trans hp) nofun nofun) errorWord
  · exact h.settled.countDwell
  · exact h.settled.countCycle
  · exact h

/-- Settles O51, by the cases of a step (`step_cases`) and one lemma an operation. -/
theorem everyStepKeepsInvariant : Obligations.EveryStepKeepsInvariant := by
  intro s t h hstep
  exact h.step hstep

/-- At reset nothing runs, no command is in flight and the panel holds a dark line (R147). -/
theorem reset_inv : State.reset.Inv where
  memories := reset_memories
  copiedCells := ⟨.nil, nofun⟩
  panelLines := ⟨List.length_replicate, List.length_replicate⟩
  pulsesIdle := ⟨rfl, rfl⟩
  channels := by decide
  colourRange := Nat.zero_le _
  runArmed := nofun
  idleDark := fun _ => rfl
  beforeInit := fun _ => ⟨rfl, rfl, rfl, rfl⟩
  roles := nofun
  sentinel := nofun
  cycling := nofun
  copying := nofun
  waiting := nofun

/-- Settles O50: the reset state meets the invariant (`reset_inv`), and no copy is in progress in it. -/
theorem resetMeetsInvariant : Obligations.ResetMeetsInvariant :=
  ⟨reset_inv, nofun⟩

end Sys2Proof.Machine
end

section
/-! SUPPORT. Timers, the schedule, and what the abstract panel shows after a tick. -/

namespace Sys2Proof.Machine

/-- Counting a nonzero counter down by one does not wrap (R124). -/
theorem toNat_pred_add_one {x : BitVec 6} (h : x ≠ 0) : (x - 1).toNat + 1 = x.toNat := by
  bv_omega

/-- An armed timer that is not expired counts down (R28). -/
theorem countDwell_of_running {s : State} (harmed : s.armed = true) (hcnt : s.dwellCnt ≠ 0) :
    s.countDwell = { s with dwellCnt := s.dwellCnt - 1 } :=
  if_pos (by rw [harmed, Bool.true_and]; exact decide_eq_true hcnt)

/-- A running cycle timer that is not expired counts down (R29). -/
theorem countCycle_of_running {s : State} (hrun : s.cycRun = true) (hcnt : s.cycCnt ≠ 0) :
    s.countCycle = { s with cycCnt := s.cycCnt - 1 } :=
  if_pos (by rw [hrun, Bool.true_and]; exact decide_eq_true hcnt)

/-- Settles O4: a unit's turn comes only with its timer running and not expired (`turn_dwellUnit`, `turn_cycUnit`). -/
theorem timerUnitCountsDown : Obligations.TimerUnitCountsDown := by
  intro s
  obtain ⟨ts, n, hs⟩ := settled_eq s
  refine ⟨fun ht => ?_, fun ht => ?_⟩
  · obtain ⟨harmed, hcnt⟩ := turn_dwellUnit ht
    have hstep : step s = .next { s with dwellCnt := s.dwellCnt - 1, turns := ts, draws := n } := by
      simp only [step, ht, hs]
      exact congrArg _ (countDwell_of_running harmed hcnt)
    exact ⟨_, hstep, toNat_pred_add_one hcnt, rfl⟩
  · obtain ⟨hrun, hcnt⟩ := turn_cycUnit ht
    have hstep : step s = .next { s with cycCnt := s.cycCnt - 1, turns := ts, draws := n } := by
      simp only [step, ht, hs]
      exact congrArg _ (countCycle_of_running hrun hcnt)
    exact ⟨_, hstep, toNat_pred_add_one hcnt, rfl⟩

/-- Settles O46: the table's four entries, read off. -/
theorem dwellSchedule : Obligations.DwellSchedule := by
  unfold Obligations.DwellSchedule
  decide

/-! ### The abstract panel (R37) -/

/-- Channel `i` of a pin value built from its bits (R31). -/
theorem extractLsb'_pinsOf (l : Nat → Bool) {i : Nat} (hi : i < 3) : (pinsOf l).extractLsb' i 1 = BitVec.ofBool (l i) := by
  have hbits : ∀ r g b : Bool, let v : BitVec 3 := BitVec.ofBool b ++ BitVec.ofBool g ++ BitVec.ofBool r
      v.extractLsb' 0 1 = BitVec.ofBool r ∧ v.extractLsb' 1 1 = BitVec.ofBool g ∧ v.extractLsb' 2 1 = BitVec.ofBool b := by
    decide
  obtain ⟨h0, h1, h2⟩ := hbits (l 0) (l 1) (l 2)
  match i with
  | 0 => exact h0
  | 1 => exact h1
  | 2 => exact h2

/-- The panel takes the polarity back off a level, so what it shows is the lit value (R37, R75). -/
theorem level_xor_pol (s : State) (y x : Nat) {i : Nat} (hi : i < 3) :
    (pinsOf (s.level y x)).extractLsb' i 1 ^^^ s.pol = 1 ↔ s.lit y x i = true := by
  rw [extractLsb'_pinsOf _ hi, State.level]
  generalize s.pol = p
  cases s.lit y x i <;> revert p <;> decide

/-- Entry `x` of the line a tick shifts is column `x`'s levels (R37, R77). -/
theorem getD_tickLine (s : State) {x : Nat} (hx : x < 128) : s.tickLine.getD x ⟨0, 0⟩ = s.tickLevels x := by
  simp [State.tickLine, hx]

/-- With a full shift register, 128 clocks push the old line out and leave the tick's own (R37). -/
theorem drop_append_tickLine {s : State} (hsr : s.sr.length = 128) : (s.sr ++ s.tickLine).drop 128 = s.tickLine := by
  rw [← hsr, List.drop_left]

/-- What a state shows that has a tick's line latched on its row, lit with its polarity (R37, R82). -/
theorem shows_of_tickLine {s t : State} (hline : t.latched = s.tickLine) (hrow : t.lrow = s.row) (hpol : t.pol = s.pol)
    (hoe : t.oe = true) (y x i : Nat) :
    t.shows y x i = (decide (x < 128) && decide (i < 3) &&
      (decide (y = s.row.toNat) || decide (y = s.row.toNat + 16)) && s.lit y x i) := by
  by_cases hx : x < 128
  · by_cases hi : i < 3
    · have hlatched : t.latchedAt x = s.tickLevels x := by
        rw [State.latchedAt, hline, getD_tickLine s hx]
      rw [Bool.eq_iff_iff]
      simp only [State.shows, hoe, hrow, hpol, hlatched, State.tickLevels, level_xor_pol s _ x hi, hx, hi]
      by_cases htop : y = s.row.toNat
      · simp [htop]
      · by_cases hbot : y = s.row.toNat + 16
        · simp [hbot]
        · simp [htop, hbot]
    · simp [State.shows, hi]
  · simp [State.shows, hx]

/-- Settles O43: a running tick latches its own line on its own row and enables the output (`exec_rtick`), and the panel
takes the polarity back off (`level_xor_pol`). -/
theorem panelShowsThePass : Obligations.PanelShowsThePass := by
  intro s hsr hrun
  refine ⟨_, exec_rtick s, fun y x i => ?_⟩
  rw [shows_of_tickLine (s := s), State.lit, Bool.and_assoc _ _ (BitVec.getLsbD _ _)]
  exacts [drop_append_tickLine hsr, rfl, rfl, hrun]

end Sys2Proof.Machine
end

section
/-! SUPPORT. The roles of the slots: what no operation and no step changes of them (R24, R25). -/

namespace Sys2Proof.Machine

variable {s t : State} {i : Instr}

/-! ### The frame of every operation and of every step -/

/-- After INIT an operation never ends the initialised state (R12, R132). -/
theorem exec_initialised (hinit : s.initialised = true) (he : exec i s = .next t) : t.initialised = true := by
  by_cases hn : ∃ cc pol, i = .init cc pol
  · obtain ⟨cc, pol, rfl⟩ := hn
    simp only [exec, execInit, hinit, if_true] at he
    split at he
    · cases he
      exact hinit
    · cases he
  · obtain ⟨u, hu, hui, -⟩ := exec_completes hinit fun cc pol e => hn ⟨cc, pol, e⟩
    cases hu.symm.trans he
    exact hui

/-- After INIT only the refresh tick writes INUSE (R88). -/
theorem exec_inuse (hinit : s.initialised = true) (hi : i ≠ .rtick) (he : exec i s = .next t) : t.inuse = s.inuse := by
  cases i with
  | rtick => exact absurd rfl hi
  | ctick =>
    cases (exec_ctick s).symm.trans he
    rfl
  | init cc pol =>
    simp only [exec, execInit, hinit, if_true] at he
    split at he <;> cases he
    rfl
  | start =>
    obtain ⟨-, rfl⟩ := whenInit_next.1 he
    rw [armIfNot_eq]
    rfl
  | stop | getbri | getcol | setvar _ =>
    obtain ⟨-, rfl⟩ := whenInit_next.1 he
    rfl
  | setbri _ | waitsync _ | getpix _ _ =>
    obtain ⟨-, rfl⟩ := whenInit_next.1 he
    split <;> rfl
  | setcol v =>
    obtain ⟨-, rfl⟩ := whenInit_next.1 he
    rw [storeColour_eq]
    split <;> rfl
  | setframe =>
    obtain ⟨-, ht⟩ := whenInit_next.1 he
    have hbegin : s.beginCopy.inuse = s.inuse := by rw [beginCopy_eq]
    rcases frameStep_cases s.beginCopy with ⟨-, hf⟩ | ⟨-, hf⟩
    · rw [ht, hf]
      exact hbegin
    · obtain ⟨ps, n, hp⟩ := tookPick_eq (s.beginCopy.copyCell s.beginCopy.nextCopy)
      rw [ht, hf, hp, copyCell_eq]
      exact (writeCell_inuse ..).trans hbegin
  | setpix x y d =>
    obtain ⟨-, rfl⟩ := whenInit_next.1 he
    split
    · exact writeCell_inuse ..
    · rfl

/-- No operation writes a slot of the frame store other than PEND (R97). -/
theorem exec_readCell_buf (he : exec i s = .next t) {k : Slot} (hk : k ≠ s.pend) (c : Nat) :
    t.readCell (.buf k) c = s.readCell (.buf k) c := by
  cases i with
  | rtick =>
    cases (exec_rtick s).symm.trans he
    cases k <;> rfl
  | ctick =>
    cases (exec_ctick s).symm.trans he
    cases k <;> rfl
  | init cc pol =>
    simp only [exec, execInit] at he
    split at he
    · cases he
      rfl
    · split at he <;> cases he
      cases k <;> rfl
  | start =>
    obtain ⟨-, rfl⟩ := whenInit_next.1 he
    rw [armIfNot_eq]
    cases k <;> rfl
  | stop | getbri | getcol | setvar _ =>
    obtain ⟨-, rfl⟩ := whenInit_next.1 he
    cases k <;> rfl
  | setbri _ | waitsync _ | getpix _ _ =>
    obtain ⟨-, rfl⟩ := whenInit_next.1 he
    split <;> cases k <;> rfl
  | setcol v =>
    obtain ⟨-, rfl⟩ := whenInit_next.1 he
    rw [storeColour_eq]
    split <;> cases k <;> rfl
  | setframe =>
    obtain ⟨-, ht⟩ := whenInit_next.1 he
    rcases frameStep_cases s.beginCopy with ⟨-, hf⟩ | ⟨-, hf⟩
    · rw [ht, hf, ← readCell_beginCopy s]
      cases k <;> rfl
    · have hpend : k ≠ s.beginCopy.pend := by rwa [beginCopy_eq]
      rw [ht, hf, readCell_tookPick, readCell_copyCell,
        readCell_writeCell_other _ _ (.inl fun e => hpend (Space.buf.inj e)), readCell_beginCopy]
  | setpix x y d =>
    obtain ⟨-, rfl⟩ := whenInit_next.1 he
    split
    · exact readCell_writeCell_other s d (.inl nofun)
    · rfl

/-- After INIT no step ends the initialised state. -/
theorem step_initialised (hinit : s.initialised = true) (h : step s = .next t) : t.initialised = true := by
  obtain ⟨ts, n, hs⟩ := settled_eq s
  have hset : s.settled.initialised = true := by rw [hs]; exact hinit
  rcases step_cases h with ⟨-, he⟩ | ⟨-, he⟩ | ⟨-, i, -, he⟩ | ⟨-, e, -, rfl⟩ | ⟨-, rfl⟩ | ⟨-, rfl⟩ | ⟨-, rfl⟩
  · exact exec_initialised hinit he
  · exact exec_initialised hinit he
  · exact exec_initialised hset he
  · exact hset
  · rw [countDwell_eq]; exact hset
  · rw [countCycle_eq]; exact hset
  · exact hinit

/-- After INIT a step leaves INUSE alone or adopts the published slot (R88). -/
theorem step_inuse (hinit : s.initialised = true) (h : step s = .next t) : t.inuse = s.inuse ∨ t.inuse = s.pub := by
  obtain ⟨ts, n, hs⟩ := settled_eq s
  have hset : s.settled.inuse = s.inuse := by rw [hs]
  rcases step_cases h with ⟨-, he⟩ | ⟨-, he⟩ | ⟨-, i, hp, he⟩ | ⟨-, e, -, rfl⟩ | ⟨-, rfl⟩ | ⟨-, rfl⟩ | ⟨-, rfl⟩
  · cases (exec_rtick s).symm.trans he
    by_cases hlast : s.row = 15 ∧ s.bp = 3
    · exact .inr (if_pos hlast)
    · exact .inl (if_neg hlast)
  · exact .inl (exec_inuse (i := .ctick) hinit nofun he)
  · exact .inl ((exec_inuse (by rw [hs]; exact hinit) (atPort_command hp).1 he).trans hset)
  · exact .inl hset
  · exact .inl (by rw [countDwell_eq]; exact hset)
  · exact .inl (by rw [countCycle_eq]; exact hset)
  · exact .inl rfl

/-- No step writes a slot of the frame store other than PEND (R97). -/
theorem step_readCell_buf (h : step s = .next t) {k : Slot} (hk : k ≠ s.pend) (c : Nat) :
    t.readCell (.buf k) c = s.readCell (.buf k) c := by
  rcases step_cases h with ⟨-, he⟩ | ⟨-, he⟩ | ⟨-, i, -, he⟩ | ⟨-, e, -, rfl⟩ | ⟨-, rfl⟩ | ⟨-, rfl⟩ | ⟨-, rfl⟩
  · exact exec_readCell_buf he hk c
  · exact exec_readCell_buf he hk c
  · have hset : k ≠ s.settled.pend := by
      obtain ⟨ts, n, hs⟩ := settled_eq s
      rwa [hs]
    rw [exec_readCell_buf he hset, readCell_settled]
  · exact readCell_settled s _ c
  · rw [← readCell_settled s, countDwell_eq]
    cases k <;> rfl
  · rw [← readCell_settled s, countCycle_eq]
    cases k <;> rfl
  · rfl

/-! ### The roles (R25) -/

/-- Of two slots that are the two of `{0, 1}`, a third one in `{0, 1}` is exactly one. -/
theorem Slot.exactly_one {a b k : Slot} (hab : a ≠ b) (ha : a ≠ .s2) (hb : b ≠ .s2) (hk : k ≠ .s2) :
    (k = a ∧ k ≠ b) ∨ (k ≠ a ∧ k = b) := by
  cases a <;> cases b <;> cases k <;> simp_all

/-- Settles O53: INIT writes the three roles; after it the invariant keeps PUB and PEND the two slots of `{0, 1}`
(`State.Inv.step`), a step's INUSE is the old one or PUB (`step_inuse`), and only slot PEND is written
(`step_readCell_buf`). -/
theorem rolesAfterInit : Obligations.RolesAfterInit := by
  refine ⟨fun s t cc pol hcc he => ?_, fun s t h hinit hstep => ?_⟩
  · simp only [exec, execInit, if_neg hcc] at he
    split at he <;> cases he
    exact ⟨nofun, nofun, nofun, rfl⟩
  · obtain ⟨-, hpub, hpend⟩ := h.roles hinit
    obtain ⟨hne', hpub', hpend'⟩ := (h.step hstep).roles (step_initialised hinit hstep)
    have hinuse := step_inuse hinit hstep
    refine ⟨⟨hne', hpub', hpend'⟩, hinuse, fun h2 => ?_, Slot.exactly_one hne' hpub' hpend',
      step_readCell_buf hstep hpend.symm⟩
    rcases hinuse with hin | hin
    · rwa [hin]
    · rwa [hin]

end Sys2Proof.Machine
end

section
/-! SUPPORT. Two runs: what an operation answers on two states that differ only where nothing reads (R33, R36). -/

namespace Sys2Proof.Machine

/-- Two outcomes of the same kind: next states in relation `R`, the same fault, or the same refusal. -/
def SameOutcome (R : State → State → Prop) : Out → Out → Prop
  | .next s, .next t => R s t
  | .fault f, .fault g => f = g
  | .refused r, .refused q => r = q
  | _, _ => False

section
variable {R : State → State → Prop} {o p : Out} {s t : State}

theorem SameOutcome.next (h : SameOutcome R o p) (ho : o = .next s) : ∃ t, p = .next t ∧ R s t := by
  subst ho
  cases p with
  | next t => exact ⟨t, rfl, h⟩
  | fault _ | refused _ => exact h.elim

theorem SameOutcome.fault_iff (h : SameOutcome R o p) (f : Fault) : o = .fault f ↔ p = .fault f := by
  cases o with
  | next _ =>
    cases p with
    | next _ => exact ⟨nofun, nofun⟩
    | fault _ | refused _ => exact h.elim
  | fault g =>
    cases p with
    | fault _ => rw [show g = _ from h]
    | next _ | refused _ => exact h.elim
  | refused _ =>
    cases p with
    | refused _ => exact ⟨nofun, nofun⟩
    | next _ | fault _ => exact h.elim

/-- The same branch of a condition on both sides. -/
theorem rel_ite {c : Prop} [Decidable c] {s' t' : State} (h : R s t) (h' : R s' t') :
    R (if c then s else s') (if c then t else t') := by
  split
  · exact h
  · exact h'

/-- A step of a SETFRAME takes the same branch where COPIED and the next cell are the same (R97). -/
theorem rel_frameStep (hcopied : t.copied = s.copied) (hnext : t.nextCopy = s.nextCopy) (hx : R s.exchange t.exchange)
    (hc : R (s.copyCell s.nextCopy).tookPick (t.copyCell s.nextCopy).tookPick) : R s.frameStep t.frameStep := by
  unfold State.frameStep
  rw [hcopied, hnext]
  exact rel_ite hx hc

/-- The precondition reads the initialised flag alone (R132). -/
theorem sameOutcome_whenInit (hinit : t.initialised = s.initialised) (i : Instr) {u v : State} (h : R u v) :
    SameOutcome R (s.whenInit i u) (t.whenInit i v) := by
  unfold State.whenInit
  rw [hinit]
  split
  · exact h
  · rfl

end

/-! ### The frame store (R33, R104) -/

/-- States that differ in the frame store alone read alike in the staging frame. -/
theorem State.SameButFrames.readCell_stage {s t : State} (h : s.SameButFrames t) (c : Nat) :
    t.readCell .stage c = s.readCell .stage c := by
  rw [h]
  rfl

theorem State.SameButFrames.writeCell_buf {s t : State} (h : s.SameButFrames t) (k : Slot) (c : Nat) (v : Cell) :
    (s.writeCell (.buf k) c v).SameButFrames (t.writeCell (.buf k) c v) := by
  rw [h]
  cases k <;> rfl

theorem State.SameButFrames.tookPick {s t : State} (h : s.SameButFrames t) : s.tookPick.SameButFrames t.tookPick := by
  rw [h]
  unfold State.tookPick
  cases s.picks <;> rfl

theorem State.SameButFrames.beginCopy {s t : State} (h : s.SameButFrames t) :
    s.beginCopy.SameButFrames t.beginCopy := by
  rw [h, beginCopy_eq, beginCopy_eq]
  rfl

theorem State.SameButFrames.exchange {s t : State} (h : s.SameButFrames t) : s.exchange.SameButFrames t.exchange := by
  rw [h]
  rfl

/-- The value copied is the staging frame's, so the two copies write alike (R97). -/
theorem State.SameButFrames.copyCell {s t : State} (h : s.SameButFrames t) (c : Nat) :
    (s.copyCell c).SameButFrames (t.copyCell c) := by
  have hpend : t.pend = s.pend := by rw [h]
  have hcopied : t.copied = s.copied := by rw [h]
  rw [copyCell_eq, copyCell_eq, h.readCell_stage, hpend, hcopied, h.writeCell_buf s.pend c (s.readCell .stage c)]
  rfl

/-- Which cell comes next, and whether one is left, is no matter of the frame store (R97). -/
theorem State.SameButFrames.frameStep {s t : State} (h : s.SameButFrames t) : s.frameStep.SameButFrames t.frameStep :=
  rel_frameStep (by rw [h]) (by rw [h]; rfl) h.exchange (h.copyCell s.nextCopy).tookPick

/-- A command on two states that differ in the frame store alone. -/
theorem State.SameButFrames.exec {s t : State} (h : s.SameButFrames t) {i : Instr} (hi : Safety.isCommand i = true) :
    SameOutcome State.SameButFrames (exec i s) (exec i t) := by
  obtain ⟨b0, b1, b2, rfl⟩ : ∃ b0 b1 b2, t = { s with buf0 := b0, buf1 := b1, buf2 := b2 } := ⟨_, _, _, h⟩
  cases i with
  | rtick | ctick => cases hi
  | init cc pol =>
    simp only [Machine.exec, execInit]
    split
    · rfl
    · split <;> rfl
  | start =>
    refine sameOutcome_whenInit rfl _ ?_
    rw [armIfNot_eq, armIfNot_eq]
    rfl
  | stop | getbri | getcol | setvar _ => exact sameOutcome_whenInit rfl _ rfl
  | setbri _ | waitsync _ => exact sameOutcome_whenInit rfl _ (rel_ite rfl rfl)
  | setcol v =>
    refine sameOutcome_whenInit rfl _ (rel_ite ?_ rfl)
    rw [storeColour_eq, storeColour_eq]
    rfl
  | setframe => exact sameOutcome_whenInit rfl _ h.beginCopy.frameStep
  | setpix _ _ _ | getpix _ _ =>
    refine sameOutcome_whenInit rfl _ ?_
    split <;> rfl

/-- Settles O57: no command reads a cell of the buffers, and the one that writes them copies the staging frame
(`State.SameButFrames.exec`). -/
theorem hostCannotReadTheFrameStore : Obligations.HostCannotReadTheFrameStore := by
  intro i s t hi h
  have hsame := h.exec hi
  exact ⟨hsame.fault_iff, fun s' => hsame.next⟩

/-! ### The trace and the abstract panel (R36, R37) -/

/-- Two states that differ in the devices of observation alone. -/
def State.SameButObservation (s t : State) : Prop :=
  t = { s with trace := t.trace, sr := t.sr, latched := t.latched, lrow := t.lrow }

section
variable {s t : State}

theorem State.SameButObservation.beginCopy (h : s.SameButObservation t) : s.beginCopy.SameButObservation t.beginCopy := by
  rw [h, beginCopy_eq, beginCopy_eq]
  rfl

theorem State.SameButObservation.exchange (h : s.SameButObservation t) : s.exchange.SameButObservation t.exchange := by
  rw [h]
  rfl

theorem State.SameButObservation.tookPick (h : s.SameButObservation t) : s.tookPick.SameButObservation t.tookPick := by
  rw [h]
  unfold State.tookPick
  cases s.picks <;> rfl

theorem State.SameButObservation.writeCell (h : s.SameButObservation t) (sp : Space) (c : Nat) (v : Cell) :
    (s.writeCell sp c v).SameButObservation (t.writeCell sp c v) := by
  rw [h]
  rcases sp with (_ | _ | _) | _ <;> rfl

theorem State.SameButObservation.copyCell (h : s.SameButObservation t) (c : Nat) :
    (s.copyCell c).SameButObservation (t.copyCell c) := by
  have hpend : t.pend = s.pend := by rw [h]
  have hcopied : t.copied = s.copied := by rw [h]
  have hread : t.readCell .stage c = s.readCell .stage c := by rw [h]; rfl
  rw [copyCell_eq, copyCell_eq, hread, hpend, hcopied, h.writeCell (.buf s.pend) c (s.readCell .stage c)]
  rfl

theorem State.SameButObservation.frameStep (h : s.SameButObservation t) : s.frameStep.SameButObservation t.frameStep :=
  rel_frameStep (by rw [h]) (by rw [h]; rfl) h.exchange (h.copyCell s.nextCopy).tookPick

theorem State.SameButObservation.settled (h : s.SameButObservation t) : s.settled.SameButObservation t.settled := by
  rw [h]
  exact rel_ite rfl rfl

/-- An operation on two states that differ in the devices of observation alone. -/
theorem State.SameButObservation.exec (h : s.SameButObservation t) (i : Instr) :
    SameOutcome State.SameButObservation (exec i s) (exec i t) := by
  obtain ⟨tr, a, b, r, rfl⟩ : ∃ tr a b r, t = { s with trace := tr, sr := a, latched := b, lrow := r } :=
    ⟨_, _, _, _, h⟩
  cases i with
  | rtick =>
    rw [exec_rtick, exec_rtick]
    rfl
  | ctick =>
    rw [exec_ctick, exec_ctick]
    rfl
  | init cc pol =>
    simp only [Machine.exec, execInit]
    split
    · rfl
    · split <;> rfl
  | start =>
    refine sameOutcome_whenInit rfl _ ?_
    rw [armIfNot_eq, armIfNot_eq]
    rfl
  | stop | getbri | getcol | setvar _ => exact sameOutcome_whenInit rfl _ rfl
  | setbri _ | waitsync _ => exact sameOutcome_whenInit rfl _ (rel_ite rfl rfl)
  | setcol v =>
    refine sameOutcome_whenInit rfl _ (rel_ite ?_ rfl)
    rw [storeColour_eq, storeColour_eq]
    rfl
  | setframe => exact sameOutcome_whenInit rfl _ h.beginCopy.frameStep
  | setpix _ _ _ | getpix _ _ =>
    refine sameOutcome_whenInit rfl _ ?_
    split <;> rfl

/-- Who takes a step reads neither the trace nor the abstract panel. -/
theorem State.SameButObservation.turn (h : s.SameButObservation t) : t.turn = s.turn := by
  rw [h]
  rfl

theorem State.SameButObservation.hostStep (h : s.SameButObservation t) :
    SameOutcome State.SameButObservation s.hostStep t.hostStep := by
  have hport : t.atPort = s.atPort := by rw [h]; rfl
  unfold State.hostStep
  rw [hport]
  split
  · exact h
  · exact h.exec _
  · show s.reject.SameButObservation t.reject
    rw [h]
    rfl

/-- A step of two states that differ in the devices of observation alone. -/
theorem State.SameButObservation.step (h : s.SameButObservation t) :
    SameOutcome State.SameButObservation (step s) (step t) := by
  unfold Machine.step
  rw [h.turn]
  split
  · exact h.exec .rtick
  · exact h.exec .ctick
  · exact h.settled.hostStep
  · show s.settled.countDwell.SameButObservation t.settled.countDwell
    rw [h.settled, countDwell_eq, countDwell_eq]
    rfl
  · show s.settled.countCycle.SameButObservation t.settled.countCycle
    rw [h.settled, countCycle_eq, countCycle_eq]
    rfl
  · exact h

end

/-- Settles O58: neither the choice of who moves nor any operation reads what the observer sees
(`State.SameButObservation.step`). -/
theorem observationChangesNothing : Obligations.ObservationChangesNothing := by
  intro s s' tr a b r hstep
  have hsame : s.SameButObservation { s with trace := tr, sr := a, latched := b, lrow := r } := rfl
  obtain ⟨t', ht', heq⟩ := hsame.step.next hstep
  exact ⟨t'.trace, t'.sr, t'.latched, t'.lrow, ht'.trans (congrArg _ heq)⟩

end Sys2Proof.Machine
end

section
/-! SUPPORT. Who writes memory: the cells each operation stores, said once, and what that leaves of every step (R39, R41). -/

namespace Sys2Proof.Machine

variable {s t : State} {i : Instr}

/-- What an operation does to memory: it stores nothing, or it is a SETPIX that stores its own cell of `stage` (R103), or a
SETFRAME that copies its next cell into slot PEND (R97). -/
theorem exec_memory_cases (he : exec i s = .next t) :
    (∀ sp, t.cellsOf sp = s.cellsOf sp) ∨
    (∃ x y d c, i = .setpix x y d ∧ hostCell x y = some c ∧ ∀ sp, t.cellsOf sp = (s.writeCell .stage c d).cellsOf sp) ∨
    (i = .setframe ∧ s.beginCopy.nextCopy < 4096 ∧ ∃ v, ∀ sp,
      t.cellsOf sp = (s.writeCell (.buf s.pend) s.beginCopy.nextCopy v).cellsOf sp) := by
  cases i with
  | rtick =>
    cases (exec_rtick s).symm.trans he
    exact .inl fun _ => rfl
  | ctick =>
    cases (exec_ctick s).symm.trans he
    exact .inl fun _ => rfl
  | init cc pol =>
    simp only [exec, execInit] at he
    refine .inl fun _ => ?_
    split at he
    · cases he
      rfl
    · split at he <;> cases he
      rfl
  | start =>
    obtain ⟨-, rfl⟩ := whenInit_next.1 he
    rw [armIfNot_eq]
    exact .inl fun _ => rfl
  | stop | getbri | getcol | setvar _ =>
    obtain ⟨-, rfl⟩ := whenInit_next.1 he
    exact .inl fun _ => rfl
  | setbri _ | waitsync _ | getpix _ _ =>
    obtain ⟨-, rfl⟩ := whenInit_next.1 he
    split <;> exact .inl fun _ => rfl
  | setcol v =>
    obtain ⟨-, rfl⟩ := whenInit_next.1 he
    rw [storeColour_eq]
    split <;> exact .inl fun _ => rfl
  | setframe =>
    obtain ⟨-, ht⟩ := whenInit_next.1 he
    rcases frameStep_cases s.beginCopy with ⟨-, hf⟩ | ⟨hmem, hf⟩
    · rw [ht, hf, beginCopy_eq]
      exact .inl fun _ => rfl
    · obtain ⟨ps, n, hp⟩ := tookPick_eq (s.beginCopy.copyCell s.beginCopy.nextCopy)
      refine .inr (.inr ⟨rfl, (mem_uncopied.1 hmem).1, s.beginCopy.readCell .stage s.beginCopy.nextCopy, fun sp => ?_⟩)
      rw [ht, hf, hp, copyCell_eq]
      generalize s.beginCopy.nextCopy = c
      generalize s.beginCopy.readCell .stage c = v
      rw [beginCopy_eq]
      cases s.pend <;> rfl
  | setpix x y d =>
    obtain ⟨-, rfl⟩ := whenInit_next.1 he
    cases hc : hostCell x y with
    | none => exact .inl fun _ => rfl
    | some c => exact .inr (.inl ⟨x, y, d, c, rfl, hc, fun _ => rfl⟩)

/-- Settles O55: of the cases of `exec_memory_cases` only the one that stores nothing is left. -/
theorem otherOperationsWriteNoCell : Obligations.OtherOperationsWriteNoCell := by
  intro i s t he hframe hpix sp c
  rcases exec_memory_cases he with hsame | ⟨x, y, d, -, hi, -⟩ | ⟨hi, -⟩
  · exact readCell_congr (hsame sp) c
  · exact absurd hi (hpix x y d)
  · exact absurd hi hframe

/-- Settles O56: the one cell an operation can store exists (`exec_memory_cases`), and such a write keeps the canonical
form (`writeCell_wf`). -/
theorem operationsKeepMemoryCanonical : Obligations.OperationsKeepMemoryCanonical := by
  intro i s t h he sp
  rcases exec_memory_cases he with hsame | ⟨x, y, d, c, -, hc, hwrite⟩ | ⟨-, hlt, v, hwrite⟩
  · rw [hsame]
    exact h sp
  · rw [hwrite]
    exact writeCell_wf s .stage d (hostCell_lt hc) h sp
  · rw [hwrite]
    exact writeCell_wf s (.buf s.pend) v hlt h sp

/-- A cell that a write changes is the one written (R41). -/
theorem eq_of_readCell_writeCell_ne {sp sp' : Space} {c d : Nat} {v : Cell}
    (h : (s.writeCell sp c v).readCell sp' d ≠ s.readCell sp' d) : sp' = sp ∧ d = c := by
  by_contra hother
  exact h (readCell_writeCell_other s v (not_and_or.1 hother))

/-- An operation that changes a cell is a SETPIX of that cell or a SETFRAME whose next copy it is (R97, R103). -/
theorem exec_changes_cell (he : exec i s = .next t) {sp : Space} {c : Nat} (hne : t.readCell sp c ≠ s.readCell sp c) :
    (sp = .stage ∧ ∃ x y d, i = .setpix x y d ∧ hostCell x y = some c) ∨
    (sp = .buf s.pend ∧ i = .setframe ∧ c = s.beginCopy.nextCopy) := by
  rcases exec_memory_cases he with hsame | ⟨x, y, d, c', hi, hc, hwrite⟩ | ⟨hi, -, v, hwrite⟩
  · exact absurd (readCell_congr (hsame sp) c) hne
  · rw [readCell_congr (hwrite sp)] at hne
    obtain ⟨hsp, rfl⟩ := eq_of_readCell_writeCell_ne hne
    exact .inl ⟨hsp, x, y, d, hi, hc⟩
  · rw [readCell_congr (hwrite sp)] at hne
    obtain ⟨hsp, hc⟩ := eq_of_readCell_writeCell_ne hne
    exact .inr ⟨hsp, hi, hc⟩

/-- Settles O54: by the cases of a step (`step_cases`), a step that changes a cell runs the command at the port, and that
command's own cell is the one changed (`exec_changes_cell`). -/
theorem onlyTwoCommandsWriteMemory : Obligations.OnlyTwoCommandsWriteMemory := by
  intro s t sp c hstep hne
  rcases step_cases hstep with ⟨-, he⟩ | ⟨-, he⟩ | ⟨hturn, i, hport, he⟩ | ⟨-, e, -, rfl⟩ | ⟨-, rfl⟩ | ⟨-, rfl⟩ | ⟨-, rfl⟩
  · exact absurd (otherOperationsWriteNoCell .rtick s t he nofun nofun sp c) hne
  · exact absurd (otherOperationsWriteNoCell .ctick s t he nofun nofun sp c) hne
  · have hpend : s.settled.pend = s.pend := by
      obtain ⟨ts, n, hs⟩ := settled_eq s
      rw [hs]
    rw [← readCell_settled s] at hne
    rw [hport]
    refine ⟨hturn, (exec_changes_cell he hne).imp ?_ ?_⟩
    · rintro ⟨hsp, x, y, d, rfl, hc⟩
      exact ⟨hsp, x, y, d, rfl, hc⟩
    · rintro ⟨hsp, rfl, hc⟩
      exact ⟨hpend ▸ hsp, rfl, hc⟩
  · exact absurd (readCell_settled s sp c) hne
  · rw [countDwell_eq] at hne
    exact absurd (readCell_settled s sp c) hne
  · rw [countCycle_eq] at hne
    exact absurd (readCell_settled s sp c) hne
  · exact absurd rfl hne

end Sys2Proof.Machine
end

section
/-! SUPPORT. The publish protocol: the copied cells agree with the staging frame, through the copies and up to the exchange
(R97, R99). -/

namespace Sys2Proof.Machine

variable {s t : State} {i : Instr}

/-- Only a SETFRAME begins a copy phase (R35, R96). -/
theorem copying_of_exec (hi : i ≠ .setframe) (he : exec i s = .next t) (hop : t.hostOp = .copying) :
    s.hostOp = .copying := by
  cases i with
  | setframe => exact absurd rfl hi
  | rtick =>
    cases (exec_rtick s).symm.trans he
    exact hop
  | ctick =>
    cases (exec_ctick s).symm.trans he
    exact hop
  | init cc pol =>
    simp only [exec, execInit] at he
    split at he
    · cases he
      exact hop
    · split at he <;> cases he
      cases hop
  | start =>
    obtain ⟨-, rfl⟩ := whenInit_next.1 he
    rwa [armIfNot_eq] at hop
  | stop | getbri | getcol | setvar _ =>
    obtain ⟨-, rfl⟩ := whenInit_next.1 he
    exact hop
  | setbri _ | getpix _ _ =>
    obtain ⟨-, rfl⟩ := whenInit_next.1 he
    split at hop <;> exact hop
  | setcol v =>
    obtain ⟨-, rfl⟩ := whenInit_next.1 he
    rw [storeColour_eq] at hop
    split at hop <;> exact hop
  | waitsync v =>
    obtain ⟨-, rfl⟩ := whenInit_next.1 he
    split at hop <;> cases hop
  | setpix x y d =>
    obtain ⟨-, rfl⟩ := whenInit_next.1 he
    split at hop
    · exact (writeCell_hostOp ..).symm.trans hop
    · exact hop

/-! ### The agreement through a SETFRAME (R96 to R98) -/

theorem State.CopyAgrees.settled (h : s.CopyAgrees) : s.settled.CopyAgrees := by
  obtain ⟨ts, n, hs⟩ := settled_eq s
  rw [hs]
  exact h

theorem State.CopyAgrees.tookPick (h : s.CopyAgrees) : s.tookPick.CopyAgrees := by
  obtain ⟨ps, n, hs⟩ := tookPick_eq s
  rw [hs]
  exact h

/-- A copy that begins has copied nothing yet (R96). -/
theorem State.CopyAgrees.beginCopy (h : s.CopyAgrees) : s.beginCopy.CopyAgrees := by
  unfold State.beginCopy
  split
  · exact h
  · exact fun _ => nofun

/-- A copied cell holds the staging frame's value, and the cells copied before keep theirs (R97). -/
theorem State.CopyAgrees.copyCell (h : s.CopyAgrees) (c : Nat) : (s.copyCell c).CopyAgrees := by
  intro hop d hd
  have hpend : (s.copyCell c).pend = s.pend := writeCell_pend ..
  have hop : s.hostOp = .copying := (writeCell_hostOp ..).symm.trans hop
  have hstage : (s.copyCell c).readCell .stage d = s.readCell .stage d := by
    rw [readCell_copyCell]
    exact readCell_writeCell_other s _ (.inl nofun)
  rw [hpend, hstage, readCell_copyCell]
  by_cases hdc : d = c
  · rw [hdc, readCell_writeCell_same]
  · rw [readCell_writeCell_other s _ (.inr hdc)]
    exact h hop d ((mem_addCopied.1 hd).resolve_left hdc)

/-- Once no cell is left to copy, slot PEND holds the whole staging frame (R48). -/
theorem State.CopyAgrees.holdsStage (h : s.CopyAgrees) (hop : s.hostOp = .copying) (hall : uncopied s.copied = []) :
    s.HoldsStage s.pend := by
  intro c hc
  have hcopied : c ∈ s.copied := by
    by_contra hnot
    exact List.not_mem_nil (hall ▸ mem_uncopied.2 ⟨hc, hnot⟩)
  exact h hop c hcopied

/-- What a step of the copy phase gives: the agreement again, and, where it ends the phase, the roles exchanged and the
staging frame published (R96, R98, R99). -/
def State.Publishes (s t : State) : Prop :=
  t.CopyAgrees ∧ (t.hostOp ≠ .copying → t.pub = s.pend ∧ t.pend = s.pub ∧ t.HoldsStage t.pub)

theorem State.CopyAgrees.frameStep (h : s.CopyAgrees) (hop : s.hostOp = .copying) : s.Publishes s.frameStep := by
  rcases frameStep_cases s with ⟨hall, hf⟩ | ⟨-, hf⟩
  · rw [hf]
    exact ⟨nofun, fun _ => ⟨rfl, rfl, h.holdsStage hop hall⟩⟩
  · have hop' : s.frameStep.hostOp = .copying := by
      obtain ⟨ps, n, hp⟩ := tookPick_eq (s.copyCell s.nextCopy)
      rw [hf, hp]
      exact (writeCell_hostOp ..).trans hop
    exact ⟨hf ▸ (h.copyCell s.nextCopy).tookPick, fun hend => absurd hop' hend⟩

/-- One execution of a SETFRAME, the first of its copy phase or a later one (R96). -/
theorem State.CopyAgrees.setframe (h : s.CopyAgrees) (he : exec .setframe s = .next t) : s.Publishes t := by
  obtain ⟨-, ht⟩ := whenInit_next.1 he
  have hpub : s.beginCopy.pub = s.pub := by rw [beginCopy_eq]
  have hpend : s.beginCopy.pend = s.pend := by rw [beginCopy_eq]
  have hstep := h.beginCopy.frameStep (by rw [beginCopy_eq])
  rwa [State.Publishes, hpub, hpend, ← ht] at hstep

/-- Settles O32: only a SETFRAME begins a copy phase (`copying_of_exec`) and, by the invariant, only it runs during one; it
keeps the agreement and publishes what it copied (`State.CopyAgrees.setframe`). Every other step of `step_cases` touches
neither the copy nor memory. -/
theorem publishedFrameIsComplete : Obligations.PublishedFrameIsComplete := by
  intro s t hinv h hstep
  obtain ⟨ts, n, hs⟩ := settled_eq s
  rcases step_cases hstep with ⟨-, he⟩ | ⟨-, he⟩ | ⟨-, i, hport, he⟩ | ⟨-, e, hport, rfl⟩ | ⟨-, rfl⟩ | ⟨-, rfl⟩ | ⟨-, rfl⟩
  · cases (exec_rtick s).symm.trans he
    exact ⟨h, absurd⟩
  · cases (exec_ctick s).symm.trans he
    exact ⟨h, absurd⟩
  · by_cases hi : i = .setframe
    · subst hi
      obtain ⟨hagree, hpublish⟩ := h.settled.setframe he
      rw [hs] at hpublish
      exact ⟨hagree, fun _ => hpublish⟩
    · have hnot : s.hostOp ≠ .copying := fun hop =>
        hi (Except.ok.inj (Option.some.inj (hport.symm.trans (hinv.copying hop))))
      have hkeep : t.hostOp = .copying → s.hostOp = .copying := fun hop => by
        have hset : s.settled.hostOp = .copying := copying_of_exec hi he hop
        rwa [hs] at hset
      exact ⟨fun hop => absurd (hkeep hop) hnot, fun hop => absurd hop hnot⟩
  · rw [hs]
    exact ⟨h, absurd⟩
  · rw [countDwell_eq, hs]
    exact ⟨h, absurd⟩
  · rw [countCycle_eq, hs]
    exact ⟨h, absurd⟩
  · exact ⟨h, absurd⟩

end Sys2Proof.Machine
end

section
/-! SUPPORT. What each turn runs (R47, R129). -/

namespace Sys2Proof.Machine

variable {s : State}

/-- In its turn the host runs the instruction at its port (R63). -/
theorem step_host_ok {i : Instr} (ht : s.turn = .host) (hport : s.atPort = some (.ok i)) : step s = exec i s.settled := by
  simp only [step, ht, State.hostStep, atPort_settled, hport]

/-- In its turn the host rejects a reserved word (R65). -/
theorem step_host_error {e : Reject} (ht : s.turn = .host) (hport : s.atPort = some (.error e)) :
    step s = .next s.settled.reject := by
  simp only [step, ht, State.hostStep, atPort_settled, hport]

/-- Rejecting a word after the choice is settled: the port and the responses are those of the state before (R61, R65). -/
theorem settled_reject (s : State) :
    s.settled.reject = { s.settled with cmds := s.cmds.tail, responses := s.responses ++ [0x80000000] } := by
  obtain ⟨ts, n, hs⟩ := settled_eq s
  rw [hs]
  rfl

/-- Settles O1, one clause a turn of `step`. -/
theorem stepRunsDecodedInstruction : Obligations.StepRunsDecodedInstruction := by
  intro s
  refine ⟨settled_eq s, fun i => step_host_ok, fun e ht hport => ?_, fun ht => ?_, fun ht => ?_, fun ht => ?_⟩
  · rw [step_host_error ht hport, settled_reject]
  · simp only [step, ht]
  · simp only [step, ht]
  · simp only [step, ht]

end Sys2Proof.Machine
end

section
/-! SUPPORT. A format and its fields: one lemma a format, read both ways, gives the two round trips of the code (R54 to
R64). -/

namespace Sys2Proof

variable {w : Word}

/-! ### A word is of a format exactly when its fields are the operands (R55 to R59) -/

theorem formatZ_eq_iff {op : BitVec 4} : formatZ op = w ↔ w.field 28 4 = op ∧ w.field 0 28 = 0 := by
  have hlt := w.isLt
  simp only [← BitVec.toNat_inj, formatZ_toNat, field_toNat, BitVec.ofNat_eq_ofNat, BitVec.toNat_ofNat]
  omega

theorem formatI_eq_iff {op : BitVec 4} {imm : BitVec 16} :
    formatI op imm = w ↔ w.field 28 4 = op ∧ w.field 16 12 = 0 ∧ w.field 0 16 = imm := by
  have hlt := w.isLt
  simp only [← BitVec.toNat_inj, formatI_toNat, field_toNat, BitVec.ofNat_eq_ofNat, BitVec.toNat_ofNat]
  omega

theorem formatC_eq_iff {op : BitVec 4} {pol : BitVec 1} {cc : BitVec 2} :
    formatC op pol cc = w ↔ w.field 28 4 = op ∧ w.field 3 25 = 0 ∧ w.field 2 1 = pol ∧ w.field 0 2 = cc := by
  have hlt := w.isLt
  simp only [← BitVec.toNat_inj, formatC_toNat, field_toNat, BitVec.ofNat_eq_ofNat, BitVec.toNat_ofNat]
  omega

theorem formatV_eq_iff {op : BitVec 4} {pol : BitVec 1} :
    formatV op pol = w ↔ w.field 28 4 = op ∧ w.field 1 27 = 0 ∧ w.field 0 1 = pol := by
  have hlt := w.isLt
  simp only [← BitVec.toNat_inj, formatV_toNat, field_toNat, BitVec.ofNat_eq_ofNat, BitVec.toNat_ofNat]
  omega

theorem formatP_eq_iff {op d : BitVec 4} {y x : BitVec 12} :
    formatP op d y x = w ↔ w.field 28 4 = op ∧ w.field 24 4 = d ∧ w.field 12 12 = y ∧ w.field 0 12 = x := by
  have hlt := w.isLt
  simp only [← BitVec.toNat_inj, formatP_toNat, field_toNat]
  omega

/-! ### The round trips -/

theorem whenZero_ok_iff {len : Nat} {zero : BitVec len} {r : Except Reject Instr} {i : Instr} :
    whenZero zero r = .ok i ↔ zero = 0 ∧ r = .ok i := by
  unfold whenZero
  split <;> simp_all

/-- The fields of a format's word are its operands, and the decoder reads them back. -/
theorem decodeWord_of_encode {i : Instr} (hi : i.wellFormed = true) (h : encode i = .command w) :
    decodeWord w = .ok i := by
  unfold decodeWord
  cases i with
  | init cc pol =>
    obtain ⟨hop, hzero, hpol, hcc⟩ := formatC_eq_iff.1 (Code.command.inj h)
    have hne : ¬cc = 0#2 := bne_iff_ne.1 hi
    simp [hop, whenZero, hzero, hpol, hcc, hne]
  | start | stop | getbri | getcol | setframe =>
    obtain ⟨hop, hzero⟩ := formatZ_eq_iff.1 (Code.command.inj h)
    simp [hop, whenZero, hzero]
  | setbri imm | setcol imm | waitsync imm =>
    obtain ⟨hop, hzero, himm⟩ := formatI_eq_iff.1 (Code.command.inj h)
    simp [hop, whenZero, hzero, himm]
  | setvar pol =>
    obtain ⟨hop, hzero, hpol⟩ := formatV_eq_iff.1 (Code.command.inj h)
    simp [hop, whenZero, hzero, hpol]
  | setpix x y d | getpix x y =>
    obtain ⟨hop, hd, hy, hx⟩ := formatP_eq_iff.1 (Code.command.inj h)
    simp [hop, hd, hy, hx]
  | rtick | ctick => cases h

/-- The decoder accepts a word only when the opcode and the must-be-zero bits are those of the row's format, so the word
is the encoding of its own fields (R63). The cases are the opcodes 1 to 12, then the reserved ones. -/
theorem decodeWord_ok {i : Instr} (h : decodeWord w = .ok i) : i.wellFormed = true ∧ encode i = .command w := by
  unfold decodeWord at h
  split at h
  case h_1 hop =>
    obtain ⟨hzero, hi⟩ := whenZero_ok_iff.1 h
    split at hi <;> cases hi
    exact ⟨bne_iff_ne.2 ‹_›, congrArg Code.command (formatC_eq_iff.2 ⟨BitVec.eq_of_toNat_eq hop, hzero, rfl, rfl⟩)⟩
  case h_2 hop | h_3 hop | h_5 hop | h_7 hop | h_9 hop =>
    obtain ⟨hzero, hi⟩ := whenZero_ok_iff.1 h
    cases hi
    exact ⟨rfl, congrArg Code.command (formatZ_eq_iff.2 ⟨BitVec.eq_of_toNat_eq hop, hzero⟩)⟩
  case h_4 hop | h_6 hop | h_10 hop =>
    obtain ⟨hzero, hi⟩ := whenZero_ok_iff.1 h
    cases hi
    exact ⟨rfl, congrArg Code.command (formatI_eq_iff.2 ⟨BitVec.eq_of_toNat_eq hop, hzero, rfl⟩)⟩
  case h_8 hop =>
    obtain ⟨hzero, hi⟩ := whenZero_ok_iff.1 h
    cases hi
    exact ⟨rfl, congrArg Code.command (formatV_eq_iff.2 ⟨BitVec.eq_of_toNat_eq hop, hzero, rfl⟩)⟩
  case h_11 hop =>
    cases h
    exact ⟨rfl, congrArg Code.command (formatP_eq_iff.2 ⟨BitVec.eq_of_toNat_eq hop, rfl, rfl, rfl⟩)⟩
  case h_12 hop =>
    split at h <;> cases h
    exact ⟨rfl, congrArg Code.command (formatP_eq_iff.2 ⟨BitVec.eq_of_toNat_eq hop, ‹_›, rfl, rfl⟩)⟩
  case h_13 => cases h

/-- Settles O6: a command by its format's fields (`decodeWord_of_encode`), an event by its source number. -/
theorem decodeOfEncodeIsIdentity : Obligations.DecodeOfEncodeIsIdentity := by
  intro i hi
  cases h : encode i with
  | command w => exact decodeWord_of_encode hi h
  | irq n =>
    cases i
    case rtick | ctick =>
      cases h
      rfl
    all_goals cases h

/-- Settles O7: a word by its format's fields (`decodeWord_ok`), a source number as one of its two values. -/
theorem encodeOfDecodeIsIdentity : Obligations.EncodeOfDecodeIsIdentity := by
  intro c i h
  cases c with
  | command w => exact decodeWord_ok h
  | irq n =>
    cases h
    revert n
    decide

/-- Settles O8: each word written out is the encoding of its instruction, which O6 decodes. -/
theorem wordsOfTheFormatsDecode : Obligations.WordsOfTheFormatsDecode :=
  ⟨decodeOfEncodeIsIdentity (.init 3 1) rfl, decodeOfEncodeIsIdentity .start rfl,
    decodeOfEncodeIsIdentity (.setbri 0xFFFF) rfl, decodeOfEncodeIsIdentity (.setcol 7) rfl,
    decodeOfEncodeIsIdentity (.setvar 1) rfl, decodeOfEncodeIsIdentity .setframe rfl,
    decodeOfEncodeIsIdentity (.waitsync 65535) rfl, decodeOfEncodeIsIdentity (.setpix 3 2 10) rfl,
    decodeOfEncodeIsIdentity (.getpix 0xFFF 0xFFF) rfl, decodeOfEncodeIsIdentity .rtick rfl,
    decodeOfEncodeIsIdentity .ctick rfl⟩

end Sys2Proof
end

section
/-! SUPPORT. Reserved words and the rows of the table: the decoder rejects R65's list, and a row selects exactly the words
of its opcode that are not reserved (R62, R65). -/

namespace Sys2Proof

variable {w : Word}

/-! ### Reserved words -/

/-- The opcode of a word is its field `w[31:28]` (R54). -/
theorem field_opcode (w : Word) : (w.field 28 4).toNat = Safety.opcode w := by
  have hlt := w.isLt
  rw [field_toNat, Safety.opcode]
  omega

theorem exists_error_ite {c : Prop} [Decidable c] {r r' : Except Reject Instr} :
    (∃ e, (if c then r else r') = .error e) ↔ if c then ∃ e, r = .error e else ∃ e, r' = .error e := by
  split <;> rfl

/-- The decoder's tests and R65's list, opcode by opcode: 1 to 12, then the reserved ones. -/
theorem decodeWord_error_iff : (∃ e, decodeWord w = .error e) ↔ Safety.Reserved w := by
  unfold decodeWord
  rw [field_opcode]
  split
  case h_1 hop | h_2 hop | h_3 hop | h_4 hop | h_5 hop | h_6 hop | h_7 hop | h_8 hop | h_9 hop | h_10 hop | h_11 hop
    | h_12 hop => simp [Safety.Reserved, hop, whenZero, exists_error_ite, field_eq_iff, imp_iff_not_or]
  case h_13 =>
    have hop : Safety.opcode w = 0 ∨ 13 ≤ Safety.opcode w := by
      simp only [imp_false] at *
      omega
    simp [Safety.Reserved, ← or_assoc, hop]

/-! ### The table -/

/-- Keeping the bits from `lo` on, as a number. -/
theorem and_highBits_toNat (w : Word) (lo : Nat) :
    (w &&& BitVec.allOnes 32 <<< lo).toNat = w.toNat / 2 ^ lo * 2 ^ lo := by
  have hlt : w.toNat / 2 ^ lo * 2 ^ lo < 2 ^ 32 := lt_of_le_of_lt (Nat.div_mul_le_self ..) w.isLt
  rw [← BitVec.shiftLeft_ushiftRight, BitVec.toNat_shiftLeft, BitVec.toNat_ushiftRight, Nat.shiftLeft_eq,
    Nat.shiftRight_eq_div_pow, Nat.mod_eq_of_lt hlt]

theorem and_three_eq_zero_iff : w &&& 3 = 0 ↔ w.toNat % 4 = 0 := by
  rw [← BitVec.toNat_inj, BitVec.toNat_and]
  exact iff_of_eq (congrArg (· = 0) (Nat.and_two_pow_sub_one_eq_mod w.toNat 2))

/-- A row's test as arithmetic: its mask keeps the bits above the operands, so `2 ^ 32 - mask` words agree under it. -/
theorem selects_iff {r : Safety.TableRow} (hr : r ∈ Safety.tableRows) :
    r.selects w = true ↔
      w.toNat / (2 ^ 32 - r.mask.toNat) * (2 ^ 32 - r.mask.toNat) = r.value.toNat ∧
        (r.channelCount = true → w.toNat % 4 ≠ 0) := by
  obtain ⟨lo, -, hmask, hspan⟩ :
      ∃ lo ≤ 28, r.mask = BitVec.allOnes 32 <<< lo ∧ 2 ^ 32 - r.mask.toNat = 2 ^ lo := by
    revert r
    decide
  rw [hspan, ← and_highBits_toNat, ← hmask, BitVec.toNat_inj, Ne, ← and_three_eq_zero_iff]
  simp [Safety.TableRow.selects, imp_iff_not_or]

/-- Every mask keeps the opcode, so a row selects words of its own opcode only. -/
theorem opcode_of_selects {r : Safety.TableRow} (hr : r ∈ Safety.tableRows) (h : r.selects w = true) :
    Safety.opcode w = Safety.opcode r.value := by
  have hmasks : ∀ r ∈ Safety.tableRows, r.mask.field 28 4 = BitVec.allOnes 4 := by decide
  have hvalue : w &&& r.mask = r.value := by simp_all [Safety.TableRow.selects]
  have hfield : (w &&& r.mask).field 28 4 = w.field 28 4 &&& r.mask.field 28 4 := BitVec.extractLsb'_and ..
  rw [← field_opcode, ← field_opcode, ← hvalue, hfield, hmasks r hr, BitVec.and_allOnes]

/-- Among the words of its opcode, a row selects those that are not reserved: row by row, the bits its mask keeps against
R65's list. -/
theorem selects_iff_not_reserved {r : Safety.TableRow} (hr : r ∈ Safety.tableRows)
    (hop : Safety.opcode w = Safety.opcode r.value) : r.selects w = true ↔ ¬Safety.Reserved w := by
  have hlt := w.isLt
  rw [selects_iff hr]
  simp only [Safety.tableRows, List.mem_cons, List.not_mem_nil, or_false] at hr
  rcases hr with rfl | rfl | rfl | rfl | rfl | rfl | rfl | rfl | rfl | rfl | rfl | rfl
  all_goals
    simp only [Safety.Reserved, Safety.opcode, List.mem_cons, List.not_mem_nil, or_false, BitVec.ofNat_eq_ofNat,
      BitVec.toNat_ofNat, Nat.reducePow, Nat.reduceMod, Nat.reduceSub, reduceCtorEq, true_imp_iff, false_imp_iff,
      and_true] at hop ⊢
    omega

/-! ### The row of an instruction -/

/-- The family `OpcodeField`, over every instruction. -/
theorem opcodeField : ∀ i, Laws.OpcodeField.Statement i
  | .init cc pol => Laws.OpcodeField.init cc pol
  | .start => Laws.OpcodeField.start
  | .stop => Laws.OpcodeField.stop
  | .setbri b => Laws.OpcodeField.setbri b
  | .getbri => Laws.OpcodeField.getbri
  | .setcol v => Laws.OpcodeField.setcol v
  | .getcol => Laws.OpcodeField.getcol
  | .setvar pol => Laws.OpcodeField.setvar pol
  | .setframe => Laws.OpcodeField.setframe
  | .waitsync t => Laws.OpcodeField.waitsync t
  | .setpix x y d => Laws.OpcodeField.setpix x y d
  | .getpix x y => Laws.OpcodeField.getpix x y
  | .rtick => Laws.OpcodeField.rtick
  | .ctick => Laws.OpcodeField.ctick

theorem opcode_of_encode {i : Instr} (h : encode i = .command w) :
    Safety.isCommand i = true ∧ Safety.opcode w = Laws.OpcodeField.number i := by
  have hi := opcodeField i
  rwa [Laws.OpcodeField.Statement, h] at hi

/-- One row has the opcode of a command, and it is the command's own (R62). -/
theorem rows_of_opcode {i : Instr} (h : Safety.isCommand i = true) :
    (Safety.tableRows.filter fun r => Safety.opcode r.value = Laws.OpcodeField.number i).map (·.mnemonic) =
      [Safety.mnemonic i] := by
  cases i
  case rtick | ctick => cases h
  all_goals rfl

/-- Settles O10: a row selects the unreserved words of its opcode (`opcode_of_selects`, `selects_iff_not_reserved`), and
the opcode of a word that decodes is that of one row (`rows_of_opcode`). -/
theorem everyWordMatchesOneRowOrIsReserved : Obligations.EveryWordMatchesOneRowOrIsReserved := by
  intro w
  cases hd : decodeWord w with
  | ok i =>
    have hres : ¬Safety.Reserved w := fun h => by
      obtain ⟨e, he⟩ := decodeWord_error_iff.2 h
      cases hd.symm.trans he
    obtain ⟨hcmd, hop⟩ := opcode_of_encode (decodeWord_ok hd).2
    have hselects : ∀ r ∈ Safety.tableRows, r.selects w = decide (Safety.opcode r.value = Safety.opcode w) :=
      fun r hr => Bool.eq_iff_iff.2 <| (Iff.intro (fun h => (opcode_of_selects hr h).symm)
        fun h => (selects_iff_not_reserved hr h.symm).2 hres).trans decide_eq_true_iff.symm
    exact .inl ⟨i, rfl, by rw [List.filter_congr hselects, hop, rows_of_opcode hcmd]⟩
  | error e =>
    have hres := decodeWord_error_iff.1 ⟨e, hd⟩
    refine .inr ⟨hres, List.filter_eq_nil_iff.2 fun r hr h => ?_⟩
    exact (selects_iff_not_reserved hr (opcode_of_selects hr h)).1 h hres

namespace Machine

/-- Settles O9: the decoder rejects R65's list (`decodeWord_error_iff`), and the host's turn on a rejected word is
`step_host_error`. -/
theorem reservedWordsAreRejected : Obligations.ReservedWordsAreRejected := by
  refine ⟨fun w => decodeWord_error_iff, fun s w ws hres ht hcmds => ?_⟩
  obtain ⟨e, he⟩ := decodeWord_error_iff.2 hres
  have hport : s.atPort = some (.error e) := by rw [State.atPort, hcmds, List.head?_cons, Option.map_some, he]
  rw [step_host_error ht hport, settled_reject, hcmds, List.tail_cons]

end Machine

end Sys2Proof
end

section
/-! SUPPORT. Placing an instruction: what each update of the placing leaves pending, and who then takes the step (DESIGN
CHOICE, log 13). -/

namespace Sys2Proof.Machine

variable {s : State}

/-! ### Putting an interrupt off -/

theorem deferRefresh_eq (s : State) :
    s.deferRefresh = { s with dwellCnt := if s.refreshPending then 1 else s.dwellCnt } := by
  unfold State.deferRefresh
  split <;> rfl

theorem deferCycle_eq (s : State) : s.deferCycle = { s with cycCnt := if s.cyclePending then 1 else s.cycCnt } := by
  unfold State.deferCycle
  split <;> rfl

@[simp] theorem refreshPending_deferRefresh (s : State) : s.deferRefresh.refreshPending = false := by
  unfold State.deferRefresh
  split
  · simp [State.refreshPending]
  · exact Bool.eq_false_iff.2 ‹_›

@[simp] theorem cyclePending_deferRefresh (s : State) : s.deferRefresh.cyclePending = s.cyclePending := by
  rw [deferRefresh_eq]
  rfl

@[simp] theorem refreshPending_deferCycle (s : State) : s.deferCycle.refreshPending = s.refreshPending := by
  rw [deferCycle_eq]
  rfl

@[simp] theorem cyclePending_deferCycle (s : State) : s.deferCycle.cyclePending = false := by
  unfold State.deferCycle
  split
  · simp [State.cyclePending]
  · exact Bool.eq_false_iff.2 ‹_›

/-! ### Whose turn it is (R137) -/

theorem turn_of_refreshPending (h : s.refreshPending = true) : s.turn = .interrupt .refresh := if_pos h

theorem turn_of_cyclePending (hr : s.refreshPending = false) (hc : s.cyclePending = true) :
    s.turn = .interrupt .colourCycle := by
  simp [State.turn, hr, hc]

theorem turn_of_not_pending (hr : s.refreshPending = false) (hc : s.cyclePending = false) :
    s.turn = s.chooseMover s.movers := by
  simp [State.turn, hr, hc]

/-- The free choice is followed when it names one of those able to move (R162). -/
theorem chooseMover_of_mem {l : List Mover} (h : s.choice ∈ l) : s.chooseMover l = turnOf s.choice := by
  match l with
  | [m] => rw [List.mem_singleton.1 h]; rfl
  | m :: n :: ms => rw [State.chooseMover, if_pos h]

/-- With no interrupt pending, a host that is ready and named next moves: as the choice beside a running timer, and alone
where no timer runs. -/
theorem turn_hostNext (hr : s.refreshPending = false) (hc : s.cyclePending = false) (hready : s.hostReady = true) :
    s.hostNext.turn = .host := by
  unfold State.hostNext
  split
  case isTrue =>
    refine (turn_of_not_pending (s := { s with turns := .host :: s.turns }) hr hc).trans ?_
    exact chooseMover_of_mem (mem_movers_host.2 hready)
  case isFalse halone =>
    obtain ⟨harmed, hcyc⟩ := not_or.1 (mt (Bool.or_eq_true ..).mpr halone)
    rw [turn_of_not_pending hr hc]
    simp [State.movers, hready, harmed, hcyc, State.chooseMover, turnOf]

/-! ### A placed command word -/

theorem placeCommand_turn (s : State) (w : Word) : (s.placeCommand w).turn = .host := by
  refine turn_hostNext (by simp) (by simp) ?_
  rw [deferCycle_eq, deferRefresh_eq]
  rfl

theorem placeCommand_atPort (s : State) (w : Word) : (s.placeCommand w).atPort = some (decodeWord w) := by
  unfold State.placeCommand State.hostNext
  split
  all_goals
    rw [deferCycle_eq, deferRefresh_eq]
    rfl

theorem withFetchWord_command (s : State) (w : Word) : s.withFetchWord 32 w.toNat = s.placeCommand w := by
  show s.placeCommand (BitVec.ofNat 32 w.toNat) = s.placeCommand w
  rw [BitVec.ofNat_toNat, BitVec.setWidth_eq]

/-- Settles O5: a placed word gives the host the turn (`placeCommand_turn`), and a placed event is pending, with no other
interrupt before it. -/
theorem placedInstructionRunsNext : Obligations.PlacedInstructionRunsNext := by
  intro s
  refine ⟨fun w i hi => ?_, ?_, ?_⟩
  · rw [withFetchWord_command]
    exact step_host_ok (placeCommand_turn s w) (by rw [placeCommand_atPort, hi])
  · obtain ⟨-, -, -, hrefresh, -⟩ := stepRunsDecodedInstruction (s.withFetchWord 8 0)
    exact hrefresh (turn_of_refreshPending rfl)
  · obtain ⟨-, -, -, -, hcycle, -⟩ := stepRunsDecodedInstruction (s.withFetchWord 8 1)
    exact hcycle (turn_of_cyclePending (refreshPending_deferRefresh _) (cyclePending_deferRefresh _))

end Sys2Proof.Machine
end

section
/-! SUPPORT. The events of one tick: the columns before the cut, the cut, the columns after it, the end (R77 to R83). -/

namespace Sys2Proof.Machine

variable {s : State}

/-! ### The events in their order (R81) -/

/-- The two events every column has: its data and its clock (R77). -/
def State.columnPulse (s : State) (c : Nat) : List Event := [.data (s.tickLevels c).d1 (s.tickLevels c).d2, .clk]

theorem columnEvents_of_cut (s : State) : s.columnEvents s.bri.toNat = .oe false :: s.columnPulse s.bri.toNat := by
  rw [State.columnEvents, if_pos rfl]
  rfl

theorem columnEvents_of_ne {c : Nat} (h : c ≠ s.bri.toNat) : s.columnEvents c = s.columnPulse c := by
  rw [State.columnEvents, if_neg h]
  rfl

/-- The data and the clock of each of some columns, the cut left out (R77). -/
def State.pulses (s : State) (l : List Nat) : List Event := l.flatMap s.columnPulse

theorem flatMap_columnEvents {l : List Nat} (h : s.bri.toNat ∉ l) : l.flatMap s.columnEvents = s.pulses l :=
  List.flatMap_congr fun _ hc => columnEvents_of_ne fun e => h (e ▸ hc)

theorem pulses_cons (s : State) (c : Nat) (l : List Nat) :
    s.pulses (c :: l) = .data (s.tickLevels c).d1 (s.tickLevels c).d2 :: .clk :: s.pulses l := rfl

theorem length_pulses (s : State) (l : List Nat) : (s.pulses l).length = 2 * l.length := by
  induction l with
  | nil => rfl
  | cons c l ih =>
    rw [pulses_cons, List.length_cons, List.length_cons, List.length_cons, ih]
    omega

theorem count_clk_pulses (s : State) (l : List Nat) : (s.pulses l).count .clk = l.length := by
  induction l with
  | nil => rfl
  | cons c l ih => simp [pulses_cons, ih]

theorem countP_ne_clk_pulses (s : State) (l : List Nat) :
    ((s.pulses l).countP fun e => e ≠ .clk) = l.length := by
  induction l with
  | nil => rfl
  | cons c l ih =>
    rw [pulses_cons, List.countP_cons_of_pos (by simp), List.countP_cons_of_neg (by simp), ih, List.length_cons]

theorem clk_or_data_of_mem_pulses {l : List Nat} {e : Event} (h : e ∈ s.pulses l) : e = .clk ∨ ∃ x y, e = .data x y := by
  obtain ⟨c, -, hc⟩ := List.mem_flatMap.1 h
  rcases List.mem_cons.1 hc with hdata | hclk
  · exact .inr ⟨_, _, hdata⟩
  · exact .inl (List.mem_singleton.1 hclk)

/-- The columns before column `b`, that column, and those after it, of the 128 there are. -/
theorem range_split {b : Nat} (hb : b < 128) : List.range 128 = List.range b ++ b :: List.range' (b + 1) (127 - b) := by
  rw [← List.range'_succ, List.range_eq_range', List.range_eq_range']
  have h := List.range'_append_1 (s := 0) (m := b) (n := 127 - b + 1)
  rw [Nat.zero_add] at h
  rw [h]
  congr 1
  omega

/-- A call of the row driver: the columns up to the brightness, the cut and its column, the remaining columns, and the
latch (R77 to R79). -/
theorem rowEvents_eq (s : State) :
    s.rowEvents =
      s.pulses (List.range s.bri.toNat) ++ .oe false :: s.columnPulse s.bri.toNat ++
        s.pulses (List.range' (s.bri.toNat + 1) (127 - s.bri.toNat)) ++ [.addr s.row, .lat, .oe true] := by
  have hbefore : s.bri.toNat ∉ List.range s.bri.toNat := by simp
  have hafter : s.bri.toNat ∉ List.range' (s.bri.toNat + 1) (127 - s.bri.toNat) := by simp
  rw [State.rowEvents, range_split (b := s.bri.toNat) (by omega), List.flatMap_append, List.flatMap_cons,
    columnEvents_of_cut, flatMap_columnEvents hbefore, flatMap_columnEvents hafter]
  simp only [List.append_assoc, List.cons_append]

/-- A tick: one call of the row driver, and one event more (R84, R89). -/
theorem tickEvents_eq (s : State) :
    s.tickEvents = s.rowEvents ++ [if s.run then .arm (Config.sched s.bp) else .oe false] := by
  rw [State.tickEvents]
  cases s.run <;> rfl

/-- Settles O41: the call's events fall into the columns before the cut, the cut's column and those after it
(`rowEvents_eq`), and each column counts one `DATA` and one `CLK`. -/
theorem tickEmitsItsEventsInOrder : Obligations.TickEmitsItsEventsInOrder := by
  intro s
  refine ⟨_, s.pulses (List.range s.bri.toNat), (s.tickLevels s.bri.toNat).d1, (s.tickLevels s.bri.toNat).d2,
    s.pulses (List.range' (s.bri.toNat + 1) (127 - s.bri.toNat)), if s.run then .arm (Config.sched s.bp) else .oe false,
    exec_rtick s, ?_, ?_, ?_, ?_, ?_, ?_, rfl, rfl, rfl, rfl, rfl⟩
  · show s.trace ++ s.tickEvents = _
    rw [tickEvents_eq, rowEvents_eq, ← List.append_assoc s.trace]
    rfl
  · simp only [List.length_append, length_pulses, List.length_range, List.length_range', List.length_cons, List.length_nil]
    omega
  · rw [count_clk_pulses, List.length_range]
  · rw [count_clk_pulses, count_clk_pulses, List.length_range, List.length_range']
    omega
  · exact fun e he => (List.mem_append.1 he).elim clk_or_data_of_mem_pulses clk_or_data_of_mem_pulses
  · rw [List.countP_append, countP_ne_clk_pulses, countP_ne_clk_pulses, List.length_range, List.length_range']
    omega

/-! ### Uniform frames (R83) -/

/-- A `DATA` event of a tick carries the levels of one of its columns. -/
theorem data_of_mem_tickEvents {x y : BitVec 3} (h : Event.data x y ∈ s.tickEvents) :
    ∃ c < 128, x = (s.tickLevels c).d1 ∧ y = (s.tickLevels c).d2 := by
  have hrow : Event.data x y ∈ (List.range 128).flatMap s.columnEvents := by
    cases hrun : s.run <;> simpa [State.tickEvents, State.rowEvents, hrun] using h
  obtain ⟨c, hc, hmem⟩ := List.mem_flatMap.1 hrow
  have hdata : Event.data x y = .data (s.tickLevels c).d1 (s.tickLevels c).d2 := by
    by_cases hcut : c = s.bri.toNat <;> simpa [State.columnEvents, hcut] using hmem
  obtain ⟨hx, hy⟩ := Event.data.inj hdata
  exact ⟨c, List.mem_range.1 hc, hx, hy⟩

/-- The levels of a colour `m` that is lit as it stands: the colour, inverted where the polarity is 1 (R75). -/
theorem pinsOf_xor_pol (m : BitVec 3) (p : BitVec 1) :
    pinsOf (fun i => m.getLsbD i ^^ decide (p = 1)) = m ^^^ notLit p := by
  revert m p
  decide

/-- With every cell of the slot in use at `v`, every column clocks `m`, the mask gated by the pass's plane of `v`, in the
polarity's levels (R74, R75). -/
theorem tickLevels_of_uniform {v : Cell} {m : BitVec 3} (hcells : ∀ c < 4096, s.readCell (.buf s.inuse) c = v)
    (hlit : ∀ i, ((mask s.col s.cc).getLsbD i && v.getLsbD s.bp.toNat) = m.getLsbD i) {c : Nat} (hc : c < 128) :
    s.tickLevels c = ⟨m ^^^ notLit s.pol, m ^^^ notLit s.pol⟩ := by
  have hpins : ∀ y < 32, pinsOf (s.level y c) = m ^^^ notLit s.pol := fun y hy => by
    have hlevel : ∀ i, s.level y c i = (m.getLsbD i ^^ decide (s.pol = 1)) := fun i => by
      rw [State.level, State.lit, hcells _ (by omega), hlit]
    rw [funext hlevel, pinsOf_xor_pol]
  rw [State.tickLevels, hpins _ (by omega), hpins _ (by omega)]

/-- Every plane of 15 is set (R83). -/
theorem getLsbD_fifteen (k : BitVec 2) : (15 : Cell).getLsbD k.toNat = true := by
  revert k
  decide

/-- Settles O42: a `DATA` event carries some column's levels (`data_of_mem_tickEvents`), and in a uniform frame every column
clocks the mask, or nothing (`tickLevels_of_uniform`). -/
theorem uniformFrames : Obligations.UniformFrames := by
  intro s
  refine ⟨_, exec_rtick s, fun hall x y hmem => ?_, fun hall x y hmem => ?_⟩
  all_goals
    rw [List.drop_left] at hmem
    obtain ⟨c, hc, rfl, rfl⟩ := data_of_mem_tickEvents hmem
  · rw [tickLevels_of_uniform hall (m := mask s.col s.cc) (fun i => by rw [getLsbD_fifteen, Bool.and_true]) hc]
    exact ⟨rfl, rfl⟩
  · rw [tickLevels_of_uniform hall (m := 0) (fun i => by simp) hc]
    exact ⟨BitVec.zero_xor, BitVec.zero_xor⟩

end Sys2Proof.Machine
end

section
/-! SUPPORT. One refresh tick: the scan position as one number and its successor, adoption, re-arming, and who arms the timer
(R84 to R94). -/

namespace Sys2Proof.Machine

variable {s t : State} {i : Instr}

/-! ### The scan position (R17, R87) -/

theorem pc_eq (s : State) : s.pc = s.bp.toNat * 16 + s.row.toNat := rfl

theorem row_toNat_eq_pc_mod (s : State) : s.row.toNat = s.pc % 16 := by
  have := pc_eq s
  omega

theorem bp_toNat_eq_pc_div (s : State) : s.bp.toNat = s.pc / 16 := by
  have := pc_eq s
  omega

theorem bp_eq_ofNat_pc_div (s : State) : s.bp = BitVec.ofNat 2 (s.pc / 16) := by
  rw [← bp_toNat_eq_pc_div, BitVec.ofNat_toNat, BitVec.setWidth_eq]

theorem pc_lt (s : State) : s.pc < 64 := by
  have := pc_eq s
  omega

/-- The scan position is at the last pass of a frame (R88). -/
theorem last_pass_iff (s : State) : s.row = 15 ∧ s.bp = 3 ↔ s.pc = 63 := by
  rw [← BitVec.toNat_inj, ← BitVec.toNat_inj, row_toNat_eq_pc_mod, bp_toNat_eq_pc_div]
  have := pc_lt s
  simp only [BitVec.ofNat_eq_ofNat, BitVec.toNat_ofNat]
  omega

/-- The row goes one on, back to 0 after the last (R87). -/
theorem rtick_row (he : exec .rtick s = .next t) : t.row.toNat = (s.row.toNat + 1) % 16 := by
  cases (exec_rtick s).symm.trans he
  exact BitVec.toNat_add ..

/-- The bit-plane goes one on after the last row, back to 0 after the last plane (R87). -/
theorem rtick_bp (he : exec .rtick s = .next t) :
    t.bp.toNat = if s.row.toNat = 15 then (s.bp.toNat + 1) % 4 else s.bp.toNat := by
  have hlast : s.row.toNat = 15 ↔ s.row = 15 := BitVec.toNat_inj (y := 15)
  cases (exec_rtick s).symm.trans he
  simp only [hlast]
  split
  · exact BitVec.toNat_add ..
  · rfl

/-- The successor of the scan position as one number (R87). -/
theorem rtick_pc (he : exec .rtick s = .next t) : t.pc = (s.pc + 1) % 64 := by
  have hrow := rtick_row he
  have hbp := rtick_bp he
  rw [pc_eq, pc_eq]
  split at hbp <;> omega

/-- Settles O38: the row's carry is the plane's clock, and the two together count modulo 64 (`rtick_row`, `rtick_bp`,
`rtick_pc`). -/
theorem scanPositionSuccessor : Obligations.ScanPositionSuccessor := by
  intro s
  have he := exec_rtick s
  exact ⟨_, he, rtick_pc he, rtick_row he, rtick_bp he⟩

/-! ### What a tick does to RUN, the roles and the trace -/

theorem rtick_run (he : exec .rtick s = .next t) : t.run = s.run := by
  cases (exec_rtick s).symm.trans he
  rfl

theorem rtick_pub (he : exec .rtick s = .next t) : t.pub = s.pub := by
  cases (exec_rtick s).symm.trans he
  rfl

theorem rtick_inuse (he : exec .rtick s = .next t) : t.inuse = if s.pc = 63 then s.pub else s.inuse := by
  cases (exec_rtick s).symm.trans he
  simp only [last_pass_iff]

theorem rtick_trace (he : exec .rtick s = .next t) : t.trace = s.trace ++ s.tickEvents := by
  cases (exec_rtick s).symm.trans he
  rfl

/-! ### The whole tick (R84, R88, R89) -/

/-- Settles O37: no command word encodes an event (`decodeWord_ok`), a tick is taken only when it is due (`turn_refresh`),
and of a full shift register its 128 clocks leave nothing behind (`exec_rtick`, `drop_append_tickLine`). -/
theorem refreshTick : Obligations.RefreshTick := by
  refine ⟨fun w h => absurd (decodeWord_ok h).2 nofun, fun s => turn_refresh, fun s hsr => ?_⟩
  rw [exec_rtick, drop_append_tickLine hsr]

/-- Settles O39: the tick's own record says when it adopts (`exec_rtick`), and no other operation writes INUSE after INIT
(`exec_inuse`). -/
theorem onlyTheBoundaryTickAdopts : Obligations.OnlyTheBoundaryTickAdopts := by
  refine ⟨fun s => ⟨_, exec_rtick s, rfl⟩, fun s t h hinit hne => ?_⟩
  obtain ⟨ts, n, hs⟩ := settled_eq s
  have hset : s.settled.inuse = s.inuse := by rw [hs]
  rcases step_cases h with ⟨ht, he⟩ | ⟨-, he⟩ | ⟨-, i, hp, he⟩ | ⟨-, e, -, rfl⟩ | ⟨-, rfl⟩ | ⟨-, rfl⟩ | ⟨-, rfl⟩
  · cases (exec_rtick s).symm.trans he
    by_cases hlast : s.row = 15 ∧ s.bp = 3
    · exact ⟨ht, hlast.1, hlast.2, if_pos hlast⟩
    · exact absurd (if_neg hlast) hne
  · exact absurd (exec_inuse (i := .ctick) hinit nofun he) hne
  · exact absurd ((exec_inuse (by rw [hs]; exact hinit) (atPort_command hp).1 he).trans hset) hne
  · exact absurd hset hne
  · exact absurd (by rw [countDwell_eq]; exact hset) hne
  · exact absurd (by rw [countCycle_eq]; exact hset) hne
  · exact absurd rfl hne

/-- The last two events of a tick: the output is enabled, then the timer is armed or the output disabled again (R89). -/
theorem tickEvents_eq_append_last (s : State) :
    ∃ evs, s.tickEvents = evs ++ [.oe true, if s.run then .arm (Config.sched s.bp) else .oe false] := by
  refine ⟨(List.range 128).flatMap s.columnEvents ++ [.addr s.row, .lat], ?_⟩
  rw [tickEvents_eq, State.rowEvents, List.append_assoc, List.append_assoc]
  rfl

/-- Settles O40, with RUN at 1 and at 0, from the tick's record (`exec_rtick`) and its last two events
(`tickEvents_eq_append_last`). -/
theorem tickRearmsOrStops : Obligations.TickRearmsOrStops := by
  intro s
  obtain ⟨evs, hevs⟩ := tickEvents_eq_append_last s
  have he := exec_rtick s
  rw [hevs, ← List.append_assoc] at he
  refine ⟨_, he, fun hrun => ?_, fun hrun => ?_⟩
  · simp only [hrun, if_true, true_and]
    exact ⟨_, rfl⟩
  · simp only [hrun, Bool.false_eq_true, if_false, true_and]
    exact ⟨_, rfl⟩

/-! ### Who arms the timer (R94, R118, R146) -/

/-- Apart from a START, and a refresh tick, no operation arms the timer. -/
theorem armed_of_exec (hstart : i ≠ .start) (htick : i ≠ .rtick) (he : exec i s = .next t) (harmed : t.armed = true) :
    s.armed = true := by
  cases i with
  | start => exact absurd rfl hstart
  | rtick => exact absurd rfl htick
  | ctick =>
    cases (exec_ctick s).symm.trans he
    exact harmed
  | init cc pol =>
    simp only [exec, execInit] at he
    split at he
    · cases he
      exact harmed
    · split at he <;> cases he
      cases harmed
  | stop | getbri | getcol | setvar _ =>
    obtain ⟨-, rfl⟩ := whenInit_next.1 he
    exact harmed
  | setbri _ | waitsync _ | getpix _ _ =>
    obtain ⟨-, rfl⟩ := whenInit_next.1 he
    split at harmed <;> exact harmed
  | setcol v =>
    obtain ⟨-, rfl⟩ := whenInit_next.1 he
    rw [storeColour_eq] at harmed
    split at harmed <;> exact harmed
  | setframe =>
    obtain ⟨-, ht⟩ := whenInit_next.1 he
    have hbegin : s.beginCopy.armed = s.armed := by rw [beginCopy_eq]
    rcases frameStep_cases s.beginCopy with ⟨-, hf⟩ | ⟨-, hf⟩
    · rw [ht, hf] at harmed
      exact hbegin.symm.trans harmed
    · obtain ⟨ps, n, hp⟩ := tookPick_eq (s.beginCopy.copyCell s.beginCopy.nextCopy)
      rw [ht, hf, hp, copyCell_eq] at harmed
      exact hbegin.symm.trans ((writeCell_armed ..).symm.trans harmed)
  | setpix x y d =>
    obtain ⟨-, rfl⟩ := whenInit_next.1 he
    split at harmed
    · exact (writeCell_armed ..).symm.trans harmed
    · exact harmed

/-- A panel with its output disabled shows nothing (R37). -/
theorem shows_of_dark (hoe : s.oe = false) (y x i : Nat) : s.shows y x i = false := by
  simp [State.shows, hoe]

/-- Settles O49: a stopped tick leaves the timer off and the output disabled (`exec_rtick`); a step that arms an unarmed timer
is no tick, which comes only while the timer is armed (`turn_refresh`), and no operation but a START (`armed_of_exec`). -/
theorem stopTakesOneMoreTick : Obligations.StopTakesOneMoreTick := by
  refine ⟨fun s hrun => ?_, fun s t h hs ht => ?_⟩
  · have he := exec_rtick s
    exact ⟨_, he, rtick_pc he, hrun, hrun, hrun, shows_of_dark hrun⟩
  · obtain ⟨ts, n, hset⟩ := settled_eq s
    have hns : s.settled.armed ≠ true := by rw [hset]; exact ne_true_of_eq_false hs
    rcases step_cases h with ⟨hturn, -⟩ | ⟨-, he⟩ | ⟨hturn, i, hp, he⟩ | ⟨-, e, -, rfl⟩ | ⟨-, rfl⟩ | ⟨-, rfl⟩ | ⟨-, rfl⟩
    · exact absurd (turn_refresh hturn).1 (ne_true_of_eq_false hs)
    · exact absurd (armed_of_exec (i := .ctick) nofun nofun he ht) (ne_true_of_eq_false hs)
    · by_cases hi : i = .start
      · exact ⟨hturn, hi ▸ hp⟩
      · exact absurd (armed_of_exec hi (atPort_command hp).1 he ht) hns
    · exact absurd ht hns
    · exact absurd (by rwa [countDwell_eq] at ht) hns
    · exact absurd (by rwa [countCycle_eq] at ht) hns
    · exact absurd ht (ne_true_of_eq_false hs)

end Sys2Proof.Machine
end

section
/-! SUPPORT. Ticks in a row: where they leave the scan position, the roles and the trace (R91 to R93). -/

namespace Sys2Proof.Machine

variable {s t u : State} {n : Nat}

/-! ### The loads of the dwell timer (R36, R92) -/

/-- A call of the row driver arms no timer (R77 to R79). -/
theorem armLoads_rowEvents (s : State) : s.rowEvents.filterMap armLoad = [] := by
  have hpulses : ∀ l, (s.pulses l).filterMap armLoad = [] := fun l => by
    refine List.filterMap_eq_nil_iff.2 fun e he => ?_
    rcases clk_or_data_of_mem_pulses he with rfl | ⟨x, y, rfl⟩
    · rfl
    · rfl
  rw [rowEvents_eq, List.filterMap_append, List.filterMap_append, List.filterMap_append, hpulses, hpulses]
  rfl

/-- A running tick arms the timer once, with the dwell of the plane it drives (R89). -/
theorem armLoads_tickEvents (hrun : s.run = true) :
    s.tickEvents.filterMap armLoad = [(Config.sched s.bp).toNat] := by
  rw [tickEvents_eq, List.filterMap_append, armLoads_rowEvents, if_pos hrun]
  rfl

/-- The dwell of the pass at scan position `pc`, in dwell time units (R27, R91). -/
def passDwell (pc : Nat) : Nat := (Config.sched (BitVec.ofNat 2 (pc / 16))).toNat

theorem sched_toNat_eq_passDwell (s : State) : (Config.sched s.bp).toNat = passDwell s.pc := by
  rw [passDwell, ← bp_eq_ofNat_pc_div]

/-- The passes of a frame in scan order have sixteen times each dwell of the schedule (R92). -/
theorem passDwells_of_frame :
    (List.range 64).map passDwell =
      List.replicate 16 1 ++ List.replicate 16 2 ++ List.replicate 16 30 ++ List.replicate 16 45 := by
  decide

/-! ### What some ticks in a row do (R91 to R93) -/

/-- `t` is the state after `n` ticks in a row from `s`: the scan position is `n` on, INUSE is PUB from the end of the frame
on, and a running engine has armed the timer with the dwell of each pass driven. -/
structure State.AfterTicks (s : State) (n : Nat) (t : State) : Prop where
  reached : execTimes .rtick n s = .next t
  pc : t.pc = (s.pc + n) % 64
  run : t.run = s.run
  pub : t.pub = s.pub
  inuse : t.inuse = if s.pc + n < 64 then s.inuse else s.pub
  loads : s.run = true → ∃ evs, t.trace = s.trace ++ evs ∧
    evs.filterMap armLoad = (List.range n).map fun i => passDwell ((s.pc + i) % 64)

theorem State.AfterTicks.zero (s : State) : s.AfterTicks 0 s where
  reached := rfl
  pc := (Nat.mod_eq_of_lt (pc_lt s)).symm
  run := rfl
  pub := rfl
  inuse := (if_pos (pc_lt s)).symm
  loads _ := ⟨[], (List.append_nil _).symm, rfl⟩

/-- One more tick. -/
theorem State.AfterTicks.succ (h : s.AfterTicks n t) (he : exec .rtick t = .next u) : s.AfterTicks (n + 1) u where
  reached := by rw [execTimes_add h.reached, execTimes_succ he, execTimes]
  pc := by
    rw [rtick_pc he, h.pc]
    omega
  run := (rtick_run he).trans h.run
  pub := (rtick_pub he).trans h.pub
  inuse := by
    have hpc := h.pc
    rw [rtick_inuse he, h.inuse, h.pub]
    by_cases hin : s.pc + n < 64
    · rw [if_pos hin]
      by_cases hlast : t.pc = 63
      · rw [if_pos hlast, if_neg (by omega)]
      · rw [if_neg hlast, if_pos (by omega)]
    · rw [if_neg hin, ite_self, if_neg (by omega)]
  loads hrun := by
    obtain ⟨evs, htrace, hloads⟩ := h.loads hrun
    refine ⟨evs ++ t.tickEvents, ?_, ?_⟩
    · rw [rtick_trace he, htrace, List.append_assoc]
    · rw [List.filterMap_append, hloads, armLoads_tickEvents (h.run.trans hrun), sched_toNat_eq_passDwell, h.pc,
        List.range_succ, List.map_append]
      rfl

/-- Any number of ticks in a row complete (R90). -/
theorem exists_afterTicks (s : State) (n : Nat) : ∃ t, s.AfterTicks n t := by
  induction n with
  | zero => exact ⟨s, .zero s⟩
  | succ n ih =>
    obtain ⟨t, ht⟩ := ih
    exact ⟨_, ht.succ (exec_rtick t)⟩

/-- Settles O44: `n` ticks from scan position 0 stand at position `n` (`State.AfterTicks.pc`), and the next one drives the
row and the plane it finds there (`exec_rtick`). -/
theorem frameVisitsEveryPassOnce : Obligations.FrameVisitsEveryPassOnce := by
  intro s hs
  refine ⟨fun n hn => ?_, ?_⟩
  · obtain ⟨t, ht⟩ := exists_afterTicks s n
    have hpc : t.pc = n := by
      rw [ht.pc, hs, Nat.zero_add, Nat.mod_eq_of_lt hn]
    refine ⟨t, _, ht.reached, hpc ▸ row_toNat_eq_pc_mod t, hpc ▸ bp_toNat_eq_pc_div t, exec_rtick t, rfl, fun hrun => ?_⟩
    exact if_pos (ht.run.trans hrun)
  · obtain ⟨t, ht⟩ := exists_afterTicks s 64
    have hpc : t.pc = 0 := by rw [ht.pc, hs]
    refine ⟨t, ht.reached, BitVec.eq_of_toNat_eq ?_, BitVec.eq_of_toNat_eq ?_⟩
    · rw [row_toNat_eq_pc_mod, hpc]
      rfl
    · rw [bp_toNat_eq_pc_div, hpc]
      rfl

/-- Settles O45: a frame's ticks arm the timer with the dwells of its 64 passes in scan order (`State.AfterTicks.loads`,
`passDwells_of_frame`); the lit units are read off the sixteen intensities. -/
theorem frameDwells : Obligations.FrameDwells := by
  intro s hs hrun
  obtain ⟨t, ht⟩ := exists_afterTicks s 64
  obtain ⟨evs, htrace, hloads⟩ := ht.loads hrun
  have hframe : ((List.range 64).map fun i => passDwell ((s.pc + i) % 64)) = (List.range 64).map passDwell :=
    List.map_congr_left fun i hi => by rw [hs, Nat.zero_add, Nat.mod_eq_of_lt (List.mem_range.1 hi)]
  rw [hframe, passDwells_of_frame] at hloads
  refine ⟨t, ht.reached, ?_⟩
  rw [htrace, List.drop_left, hloads]
  exact ⟨rfl, by decide, by decide⟩

/-- Settles O48: INUSE is kept while the ticks stay inside the frame, and the one that ends it adopts
(`State.AfterTicks.inuse`). -/
theorem nextAdoptionIsTheBoundaryTick : Obligations.NextAdoptionIsTheBoundaryTick := by
  intro s
  have hlt := pc_lt s
  refine ⟨fun n hn => ?_, ?_⟩
  · obtain ⟨t, ht⟩ := exists_afterTicks s n
    exact ⟨t, ht.reached, ht.inuse.trans (if_pos (by omega)), ht.pub⟩
  · obtain ⟨t, ht⟩ := exists_afterTicks s (64 - s.pc)
    refine ⟨t, ht.reached, ht.inuse.trans (if_neg (by omega)), ht.pub, ?_⟩
    rw [ht.pc]
    omega

end Sys2Proof.Machine
end

section
/-! SUPPORT. The pixel accessors: SETPIX and GETPIX on a coordinate pair that names a cell and on one that names none (R103 to
R105). -/

namespace Sys2Proof.Machine

variable {s t : State} {x y x' y' : BitVec 12} {d : Cell} {c : Nat}

/-! ### The cell a coordinate pair names (R43) -/

theorem hostCell_isSome_iff :
    (hostCell x y).isSome = true ↔ 0 ≤ x.toInt ∧ x.toInt < 128 ∧ 0 ≤ y.toInt ∧ y.toInt < 32 := by
  refine ⟨fun h => ?_, fun hr => ?_⟩
  · obtain ⟨c, hc⟩ := Option.isSome_iff_exists.1 h
    exact (hostCell_some hc).1
  · rw [hostCell_of hr]
    rfl

/-- Different pairs name different cells: the column is below the width of a row. -/
theorem hostCell_injective (h : hostCell x y = some c) (h' : hostCell x' y' = some c) : x = x' ∧ y = y' := by
  obtain ⟨hr, hc⟩ := hostCell_some h
  obtain ⟨hr', hc'⟩ := hostCell_some h'
  exact ⟨BitVec.eq_of_toInt_eq (by omega), BitVec.eq_of_toInt_eq (by omega)⟩

/-! ### The two commands, in range and out of range -/

theorem exec_setpix_of_some (hinit : s.initialised = true) (hc : hostCell x y = some c) :
    exec (.setpix x y d) s = .next ((s.writeCell .stage c d).respond 0) := by
  simp only [exec, execSetpix, whenInit_of hinit, hc]

theorem exec_setpix_of_none (hinit : s.initialised = true) (hc : hostCell x y = none) :
    exec (.setpix x y d) s = .next (s.respond 0) := by
  simp only [exec, execSetpix, whenInit_of hinit, hc]

theorem exec_getpix_of_some (hinit : s.initialised = true) (hc : hostCell x y = some c) :
    exec (.getpix x y) s = .next (s.respond ((s.readCell .stage c).setWidth 32)) := by
  simp only [exec, execGetpix, whenInit_of hinit, hc]

theorem exec_getpix_of_none (hinit : s.initialised = true) (hc : hostCell x y = none) :
    exec (.getpix x y) s = .next (s.respond 0) := by
  simp only [exec, execGetpix, whenInit_of hinit, hc]

/-- The response of GETPIX is the cell, zero-extended (R104). -/
theorem toNat_pixelResponse (v : Cell) : (v.setWidth 32).toNat = v.toNat :=
  BitVec.toNat_setWidth_of_le (by decide)

/-- A SETPIX in range leaves its intensity in its cell (R103). -/
theorem readCell_of_setpix (hc : hostCell x y = some c) (he : exec (.setpix x y d) s = .next t) :
    t.readCell .stage c = d := by
  obtain ⟨hinit, -⟩ := whenInit_next.1 he
  cases (exec_setpix_of_some hinit hc).symm.trans he
  rw [readCell_respond, readCell_writeCell_same]

/-! ### The rules -/

/-- Settles O25: in range the command is one write of `stage` and its response (`exec_setpix_of_some`), out of range the
response alone (`exec_setpix_of_none`). -/
theorem setPixelWritesOneCell : Obligations.SetPixelWritesOneCell := by
  refine ⟨fun x y d s h => whenInit_not h _ _, fun s x y d hinit => ⟨formatP_toNat .., ?_⟩⟩
  by_cases hr : 0 ≤ x.toInt ∧ x.toInt < 128 ∧ 0 ≤ y.toInt ∧ y.toInt < 32
  · have he := exec_setpix_of_some (d := d) hinit (hostCell_of hr)
    refine ⟨_, he, rfl, fun _ => ⟨readCell_of_setpix (hostCell_of hr) he, fun sp c hne => ?_⟩, absurd hr⟩
    exact readCell_writeCell_other s d hne
  · exact ⟨_, exec_setpix_of_none hinit (hostCell_none hr), rfl, fun h => absurd h hr, fun _ _ _ => rfl⟩

/-- Settles O26: in range the response is the cell, zero-extended (`exec_getpix_of_some`), out of range 0
(`exec_getpix_of_none`). -/
theorem getPixelReadsOneCell : Obligations.GetPixelReadsOneCell := by
  refine ⟨fun x y s h => whenInit_not h _ _, fun s x y hinit => ⟨formatP_toNat .., ?_⟩⟩
  by_cases hr : 0 ≤ x.toInt ∧ x.toInt < 128 ∧ 0 ≤ y.toInt ∧ y.toInt < 32
  · exact ⟨_, exec_getpix_of_some hinit (hostCell_of hr), by rw [if_pos hr, toNat_pixelResponse]⟩
  · exact ⟨_, exec_getpix_of_none hinit (hostCell_none hr), by rw [if_neg hr]; rfl⟩

/-- Settles O27: GETPIX reads the cell SETPIX wrote (`readCell_of_setpix`); a step that changes a cell of `stage` is a SETPIX
that names it (`onlyTwoCommandsWriteMemory`), and one pair alone names it (`hostCell_injective`). -/
theorem pixelRoundTrip : Obligations.PixelRoundTrip := by
  refine ⟨fun s t x y d c hc he u hinit hu => ?_, fun u v x y c hstep hc hne => ?_, fun x y x' y' c => hostCell_injective,
    fun x y => hostCell_isSome_iff, fun s x y d hinit hc => ?_⟩
  · refine ⟨_, ?_, exec_getpix_of_some hinit hc⟩
    rw [toNat_pixelResponse, hu, readCell_of_setpix hc he]
  · obtain ⟨-, ⟨-, x', y', d, hport, hc'⟩ | ⟨hbuf, -⟩⟩ := onlyTwoCommandsWriteMemory u v .stage c hstep hne
    · obtain ⟨rfl, rfl⟩ := hostCell_injective hc hc'
      exact ⟨d, hport⟩
    · cases hbuf
  · exact ⟨exec_setpix_of_none hinit hc, exec_getpix_of_none hinit hc⟩

end Sys2Proof.Machine
end

section
/-! SUPPORT. The steps of a SETFRAME: one cell copy, and the exchange (R96 to R98). -/

namespace Sys2Proof.Machine

variable {s t u : State} {c n : Nat}

/-! ### Where a SETFRAME stands -/

/-- What the next step of a SETFRAME finds copied: `COPIED` in the copy phase, nothing where the step begins it (R96). -/
def State.alreadyCopied (s : State) : List Nat := if s.hostOp = .copying then s.copied else []

theorem alreadyCopied_of_copying (h : s.hostOp = .copying) : s.alreadyCopied = s.copied := if_pos h

theorem alreadyCopied_of_not_copying (h : s.hostOp ≠ .copying) : s.alreadyCopied = [] := if_neg h

theorem beginCopy_of_copying (h : s.hostOp = .copying) : s.beginCopy = s := if_pos h

@[simp] theorem beginCopy_copied (s : State) : s.beginCopy.copied = s.alreadyCopied := by
  rw [beginCopy_eq]
  rfl

@[simp] theorem beginCopy_pend (s : State) : s.beginCopy.pend = s.pend := by
  rw [beginCopy_eq]

/-- Which cell comes next depends on what is copied already and on the free choice (R96, R97). -/
theorem nextCopy_beginCopy (s : State) : s.beginCopy.nextCopy = { s with copied := s.alreadyCopied }.nextCopy := by
  rw [beginCopy_eq]
  rfl

theorem uncopied_eq_nil {l : List Nat} (h : ∀ c < 4096, c ∈ l) : uncopied l = [] :=
  List.eq_nil_iff_forall_not_mem.2 fun c hc => (mem_uncopied.1 hc).2 (h c (mem_uncopied.1 hc).1)

/-- One execution of a SETFRAME, after INIT (R96). -/
theorem exec_setframe (hinit : s.initialised = true) : exec .setframe s = .next s.beginCopy.frameStep :=
  whenInit_of hinit _ _

/-! ### One copy (R97) -/

/-- `t` is `s` but for what a copy may write: HOST_OP, COPIED, the frame store and the model's own choice of the cell. -/
def State.SameButCopy (s t : State) : Prop :=
  t = { s with hostOp := t.hostOp, copied := t.copied, buf0 := t.buf0, buf1 := t.buf1, buf2 := t.buf2
               picks := t.picks, draws := t.draws }

theorem State.SameButCopy.trans (h : s.SameButCopy t) (h' : t.SameButCopy u) : s.SameButCopy u := by
  rw [h', h]
  rfl

theorem State.SameButCopy.beginCopy (s : State) : s.SameButCopy s.beginCopy := by
  rw [beginCopy_eq]
  rfl

theorem State.SameButCopy.copyCell (s : State) (c : Nat) : s.SameButCopy (s.copyCell c) := by
  rw [copyCell_eq]
  cases s.pend <;> rfl

theorem State.SameButCopy.tookPick (s : State) : s.SameButCopy s.tookPick := by
  obtain ⟨ps, n, h⟩ := tookPick_eq s
  rw [h]
  rfl

theorem State.SameButCopy.initialised (h : s.SameButCopy t) : t.initialised = s.initialised := by rw [h]

theorem State.SameButCopy.pub (h : s.SameButCopy t) : t.pub = s.pub := by rw [h]

theorem State.SameButCopy.pend (h : s.SameButCopy t) : t.pend = s.pend := by rw [h]

theorem State.SameButCopy.inuse (h : s.SameButCopy t) : t.inuse = s.inuse := by rw [h]

theorem State.SameButCopy.cmds (h : s.SameButCopy t) : t.cmds = s.cmds := by rw [h]

theorem State.SameButCopy.responses (h : s.SameButCopy t) : t.responses = s.responses := by rw [h]

/-- A step of a SETFRAME that copies cell `c` takes `s` to `t`. -/
structure State.Copies (s : State) (c : Nat) (t : State) : Prop where
  hostOp : t.hostOp = .copying
  copied : t.copied = addCopied s.alreadyCopied c
  written : t.readCell (.buf s.pend) c = s.readCell .stage c
  kept : ∀ sp d, sp ≠ .buf s.pend ∨ d ≠ c → t.readCell sp d = s.readCell sp d
  frame : s.SameButCopy t

/-- The copy as `frameStep` makes it, the phase begun if need be. -/
theorem copies_copyCell (s : State) (c : Nat) : s.Copies c (s.beginCopy.copyCell c).tookPick where
  hostOp := by
    obtain ⟨ps, n, h⟩ := tookPick_eq (s.beginCopy.copyCell c)
    rw [h, copyCell_eq, beginCopy_eq]
    exact writeCell_hostOp ..
  copied := by
    obtain ⟨ps, n, h⟩ := tookPick_eq (s.beginCopy.copyCell c)
    rw [h, copyCell_eq, beginCopy_copied]
  written := by
    rw [readCell_tookPick, readCell_copyCell, beginCopy_pend, readCell_writeCell_same, readCell_beginCopy]
  kept sp d hne := by
    rw [readCell_tookPick, readCell_copyCell, beginCopy_pend, readCell_writeCell_other _ _ hne, readCell_beginCopy]
  frame := ((State.SameButCopy.beginCopy s).trans (.copyCell _ c)).trans (.tookPick _)

/-- What a SETFRAME does next, one execution of it (R96 to R98): a copy of the cell chosen, one not copied yet, or the
exchange when none is left. -/
theorem exec_setframe_cases (hinit : s.initialised = true) :
    (uncopied s.alreadyCopied = [] ∧ exec .setframe s = .next s.beginCopy.exchange) ∨
    (s.beginCopy.nextCopy ∈ uncopied s.alreadyCopied ∧
      ∃ t, exec .setframe s = .next t ∧ s.Copies s.beginCopy.nextCopy t) := by
  rw [exec_setframe hinit, ← beginCopy_copied]
  rcases frameStep_cases s.beginCopy with ⟨hall, hf⟩ | ⟨hmem, hf⟩
  · exact .inl ⟨hall, by rw [hf]⟩
  · exact .inr ⟨hmem, _, rfl, hf ▸ copies_copyCell s _⟩

/-- With a cell left, a SETFRAME copies the one its choice names (R97). -/
theorem exec_setframe_copies (hinit : s.initialised = true) (hleft : uncopied s.alreadyCopied ≠ []) :
    s.beginCopy.nextCopy ∈ uncopied s.alreadyCopied ∧
      ∃ t, exec .setframe s = .next t ∧ s.Copies s.beginCopy.nextCopy t :=
  (exec_setframe_cases hinit).resolve_left fun h => hleft h.1

/-- With no cell left, a SETFRAME in its copy phase makes the exchange (R98). -/
theorem exec_setframe_exchanges (hinit : s.initialised = true) (hop : s.hostOp = .copying)
    (hall : uncopied s.copied = []) : exec .setframe s = .next s.exchange := by
  rw [← alreadyCopied_of_copying hop] at hall
  rcases exec_setframe_cases hinit with ⟨-, he⟩ | ⟨hmem, -⟩
  · rwa [beginCopy_of_copying hop] at he
  · exact absurd (hall ▸ hmem) List.not_mem_nil

/-- Settles O28: the step is one copy (`exec_setframe_copies`), of the cell that the choice names among those not copied
(`nextCopy_beginCopy`). -/
theorem setFrameCopiesOneCell : Obligations.SetFrameCopiesOneCell := by
  intro s hinit done hdone hleft c hc
  obtain rfl : done = s.alreadyCopied := hdone
  rw [hc, ← nextCopy_beginCopy]
  obtain ⟨hmem, t, he, h⟩ := exec_setframe_copies hinit hleft
  obtain ⟨hlt, hnot⟩ := mem_uncopied.1 hmem
  exact ⟨hlt, hnot, t, he, h.hostOp, fun d => h.copied ▸ mem_addCopied, h.written, h.kept, h.frame⟩

/-! ### The free order (R97, U6) -/

/-- Some pick names the cell, whichever is left. -/
theorem exists_pick_of_mem_uncopied {l : List Nat} (hc : c ∈ uncopied l) :
    ∃ p, ∀ s : State, s.copied = l → s.pick = p → s.nextCopy = c := by
  obtain ⟨p, hp, hget⟩ := List.getElem_of_mem hc
  refine ⟨p, fun s hcopied hpick => ?_⟩
  rw [State.nextCopy, hcopied, hpick, Nat.mod_eq_of_lt hp, List.getD_eq_getElem _ _ hp, hget]

/-- Settles O29: the pick is the place of the cell among those left (`exists_pick_of_mem_uncopied`). -/
theorem setFrameOrderIsFree : Obligations.SetFrameOrderIsFree := by
  intro s hinit done hdone c hlt hnot
  obtain rfl : done = s.alreadyCopied := hdone
  have hmem : c ∈ uncopied s.alreadyCopied := mem_uncopied.2 ⟨hlt, hnot⟩
  obtain ⟨p, hp⟩ := exists_pick_of_mem_uncopied hmem
  obtain ⟨-, t, he, h⟩ := exec_setframe_copies (s := { s with picks := [p] }) hinit (List.ne_nil_of_mem hmem)
  have hnext : ({ s with picks := [p] } : State).beginCopy.nextCopy = c :=
    hp _ (beginCopy_copied _) (by rw [beginCopy_eq]; rfl)
  rw [hnext] at h
  exact ⟨p, t, he, h.hostOp, fun d => h.copied ▸ mem_addCopied⟩

/-! ### The exchange (R98) -/

/-- Settles O30: with every cell copied none is left (`uncopied_eq_nil`), and the step is the exchange
(`exec_setframe_exchanges`). -/
theorem setFrameExchanges : Obligations.SetFrameExchanges :=
  ⟨rfl, fun _ h => whenInit_not h _ _, fun _ hinit hop hall => exec_setframe_exchanges hinit hop (uncopied_eq_nil hall)⟩

/-! ### The whole command (R96, R99) -/

/-- `t` is the state after `n` executions of a SETFRAME that `s` begins, each of them a copy. -/
structure State.AfterCopies (s : State) (n : Nat) (t : State) : Prop where
  reached : execTimes .setframe n s = .next t
  copying : n ≠ 0 → t.hostOp = .copying
  cells : t.alreadyCopied.Pairwise (· < ·) ∧ ∀ c ∈ t.alreadyCopied, c < 4096
  count : t.alreadyCopied.length = n
  agrees : t.CopyAgrees
  kept : ∀ sp c, sp ≠ .buf s.pend → t.readCell sp c = s.readCell sp c
  frame : s.SameButCopy t

theorem State.AfterCopies.zero (hop : s.hostOp ≠ .copying) : s.AfterCopies 0 s where
  reached := rfl
  copying := absurd rfl
  cells := by
    rw [alreadyCopied_of_not_copying hop]
    exact ⟨.nil, nofun⟩
  count := by rw [alreadyCopied_of_not_copying hop, List.length_nil]
  agrees := (absurd · hop)
  kept _ _ _ := rfl
  frame := rfl

/-- One more copy. -/
theorem State.AfterCopies.succ (h : s.AfterCopies n t) (he : exec .setframe t = .next u) (hu : t.Copies c u)
    (hmem : c ∈ uncopied t.alreadyCopied) : s.AfterCopies (n + 1) u := by
  obtain ⟨hlt, hnot⟩ := mem_uncopied.1 hmem
  obtain ⟨hsorted, hcells⟩ := h.cells
  have hdone : u.alreadyCopied = addCopied t.alreadyCopied c := (alreadyCopied_of_copying hu.hostOp).trans hu.copied
  exact
    { reached := by rw [execTimes_add h.reached, execTimes_succ he, execTimes]
      copying := fun _ => hu.hostOp
      cells := hdone ▸ ⟨addCopied_pairwise hsorted c, fun d hd => (mem_addCopied.1 hd).elim (· ▸ hlt) (hcells d)⟩
      count := by rw [hdone, length_addCopied hnot, h.count]
      agrees := (h.agrees.setframe he).1
      kept := fun sp d hsp => (hu.kept sp d (.inl (h.frame.pend ▸ hsp))).trans (h.kept sp d hsp)
      frame := h.frame.trans hu.frame }

/-- Up to the size of a frame, any number of copies in a row complete (R96). -/
theorem exists_afterCopies (hinit : s.initialised = true) (hop : s.hostOp ≠ .copying) (hn : n ≤ 4096) :
    ∃ t, s.AfterCopies n t := by
  induction n with
  | zero => exact ⟨s, .zero hop⟩
  | succ n ih =>
    obtain ⟨t, h⟩ := ih (Nat.le_of_succ_le hn)
    have hleft : uncopied t.alreadyCopied ≠ [] := uncopied_ne_nil h.cells.1 h.cells.2 (h.count ▸ hn)
    obtain ⟨hmem, u, he, hu⟩ := exec_setframe_copies (h.frame.initialised.trans hinit) hleft
    exact ⟨u, h.succ he hu hmem⟩

/-- After as many copies as a frame has cells, none is left (R96). -/
theorem State.AfterCopies.uncopied_eq_nil (h : s.AfterCopies 4096 t) : uncopied t.copied = [] := by
  rw [← alreadyCopied_of_copying (h.copying (by decide)), ← List.length_eq_zero_iff, length_uncopied h.cells.1 h.cells.2,
    h.count]

/-- The exchange after some copies, with the whole frame of the command (R98). -/
theorem State.SameButCopy.exchange (h : s.SameButCopy t) :
    t.exchange = { s with
      pub := s.pend, pend := s.pub, hostOp := .idle, cmds := s.cmds.tail, responses := s.responses ++ [0]
      copied := t.copied, buf0 := t.buf0, buf1 := t.buf1, buf2 := t.buf2, picks := t.picks, draws := t.draws } := by
  rw [h]
  rfl

/-- Settles O31: 4096 copies (`exists_afterCopies`), each of which answers nothing and keeps the copied cells equal to the
staging frame's (`State.CopyAgrees`), and the exchange, which publishes them. -/
theorem setFrameTakes4097Steps : Obligations.SetFrameTakes4097Steps := by
  intro s hinit hop
  refine ⟨fun n hn => ?_, ?_⟩
  · obtain ⟨t, h⟩ := exists_afterCopies hinit hop (Nat.succ_le_of_lt hn)
    have hcopying : t.hostOp = .copying := h.copying (Nat.succ_ne_zero n)
    have hcount := h.count
    rw [alreadyCopied_of_copying hcopying] at hcount
    exact ⟨t, h.reached, hcopying, hcount, h.frame.responses, h.frame.pub, h.frame.pend⟩
  · obtain ⟨t, h⟩ := exists_afterCopies hinit hop le_rfl
    have hcopying : t.hostOp = .copying := h.copying (by decide)
    have he := exec_setframe_exchanges (h.frame.initialised.trans hinit) hcopying h.uncopied_eq_nil
    have hreached : execTimes .setframe (4096 + 1) s = .next t.exchange := by
      rw [execTimes_add h.reached, execTimes_succ he, execTimes]
    obtain ⟨-, -, hholds⟩ := (h.agrees.setframe he).2 nofun
    refine ⟨_, hreached, h.frame.pend, h.frame.pub, rfl, congrArg List.tail h.frame.cmds,
      congrArg (· ++ [0]) h.frame.responses, fun c hc => ?_, h.kept, ?_⟩
    · exact (hholds c hc).trans (h.kept .stage c nofun)
    · rw [h.frame.exchange]

end Sys2Proof.Machine
end

section
/-! SUPPORT. Waiting for an adoption, and the publish discipline (R100, R101, R106). -/

namespace Sys2Proof.Machine

variable {s t : State}

/-! ### WAITSYNC (R100, R101) -/

theorem synced_iff : s.synced = true ↔ s.inuse = s.pub := decide_eq_true_iff

/-- Settles O33: both branches of the command, on SYNCED (`synced_iff`). -/
theorem waitSyncWaitsForAdoption : Obligations.WaitSyncWaitsForAdoption := by
  refine ⟨fun t s h => whenInit_not h _ _, fun s t hinit => ⟨formatI_toNat .., fun hsync => ?_, fun hsync => ?_⟩⟩
  · exact (whenInit_of hinit _ _).trans (congrArg _ (if_pos (synced_iff.2 hsync)))
  · exact (whenInit_of hinit _ _).trans (congrArg _ (if_neg (mt synced_iff.1 hsync)))

/-- A hung host takes no step (R101). -/
theorem State.Hung.not_hostReady (h : s.Hung) : s.hostReady ≠ true := by
  obtain ⟨-, hop, hsync, -, -⟩ := h
  simp [State.hostReady, State.hostBlocked, State.synced, hop, hsync]

/-- Settles O34: a hung host is not ready and no dwell timer runs, so only the cycler or nobody moves, and neither touches the
roles or the host. -/
theorem hungHostStaysHung : Obligations.HungHostStaysHung := by
  intro s h
  have ⟨_, _, _, _, harmed⟩ := h
  obtain ⟨ts, n, hs⟩ := settled_eq s
  cases ht : s.turn with
  | interrupt src =>
    cases src with
    | refresh => exact absurd (turn_refresh ht).1 (ne_true_of_eq_false harmed)
    | colourCycle =>
      have hstep : step s = exec .ctick s := by simp only [step, ht]
      exact ⟨_, hstep.trans (exec_ctick s), h, rfl, rfl⟩
  | host => exact absurd (turn_host ht) h.not_hostReady
  | dwellUnit => exact absurd (turn_dwellUnit ht).1 (ne_true_of_eq_false harmed)
  | cycUnit =>
    have hstep : step s = .next s.settled.countCycle := by simp only [step, ht]
    rw [countCycle_eq, hs] at hstep
    exact ⟨_, hstep, h, rfl, rfl⟩
  | idle =>
    have hstep : step s = .next s := by simp only [step, ht]
    exact ⟨s, hstep, h, rfl, rfl⟩

/-! ### The publish discipline (R106, R150) -/

/-- A step of a SETFRAME that leaves it in its copy phase is a copy (R96). -/
theorem sameButCopy_of_exec_setframe (he : exec .setframe s = .next t) (hop : t.hostOp = .copying) : s.SameButCopy t := by
  obtain ⟨hinit, -⟩ := whenInit_next.1 he
  rcases exec_setframe_cases hinit with ⟨-, hx⟩ | ⟨-, u, hu, hcopies⟩
  · cases hx.symm.trans he
    cases hop
  · cases hu.symm.trans he
    exact hcopies.frame

/-- Where a copy phase goes on, PEND and PUB stay, and INUSE stays or adopts PUB (R88, R96). -/
structure State.KeepsRoles (s t : State) : Prop where
  pub : t.pub = s.pub
  pend : t.pend = s.pend
  inuse : t.inuse = s.inuse ∨ t.inuse = s.pub

/-- Neither value INUSE can take is PEND. -/
theorem State.KeepsRoles.tearFree (h : s.KeepsRoles t) (hfree : s.TearFree) : t.TearFree := by
  obtain ⟨hinuse, hpub⟩ := hfree
  rw [State.TearFree, h.pub, h.pend]
  refine ⟨?_, hpub⟩
  rcases h.inuse with hin | hin
  · rwa [hin]
  · rw [hin]
    exact hpub.symm

/-- Every step that leaves a SETFRAME in its copy phase keeps the roles: a host step is its copy, by the invariant, and a tick
can adopt PUB only. -/
theorem keepsRoles_of_step (hinv : s.Inv) (hstep : step s = .next t) (hop : t.hostOp = .copying) : s.KeepsRoles t := by
  obtain ⟨ts, n, hs⟩ := settled_eq s
  rcases step_cases hstep with ⟨-, he⟩ | ⟨-, he⟩ | ⟨-, i, hport, he⟩ | ⟨-, e, -, rfl⟩ | ⟨-, rfl⟩ | ⟨-, rfl⟩ | ⟨-, rfl⟩
  · refine ⟨rtick_pub he, ?_, ?_⟩
    · cases (exec_rtick s).symm.trans he
      rfl
    · rw [rtick_inuse he]
      split
      · exact .inr rfl
      · exact .inl rfl
  · cases (exec_ctick s).symm.trans he
    exact ⟨rfl, rfl, .inl rfl⟩
  · by_cases hi : i = .setframe
    · subst hi
      have hcopy := sameButCopy_of_exec_setframe he hop
      rw [hs] at hcopy
      exact ⟨hcopy.pub, hcopy.pend, .inl hcopy.inuse⟩
    · have hwas : s.settled.hostOp = .copying := copying_of_exec hi he hop
      rw [hs] at hwas
      exact absurd (Except.ok.inj (Option.some.inj (hport.symm.trans (hinv.copying hwas)))) hi
  · rw [hs]
    exact ⟨rfl, rfl, .inl rfl⟩
  · rw [countDwell_eq, hs]
    exact ⟨rfl, rfl, .inl rfl⟩
  · rw [countCycle_eq, hs]
    exact ⟨rfl, rfl, .inl rfl⟩
  · exact ⟨rfl, rfl, .inl rfl⟩

/-- Settles O35: a step writes no slot but PEND (`step_readCell_buf`), which is not INUSE, and the roles keep the two apart
while the copy goes on (`keepsRoles_of_step`). -/
theorem disciplineAvoidsTearing : Obligations.DisciplineAvoidsTearing := by
  refine ⟨fun s hsync hne => ⟨hsync ▸ hne.symm, hne⟩, fun s t hinv hfree hstep => ⟨fun c => ?_, fun hop => ?_⟩⟩
  · exact step_readCell_buf hstep hfree.1.symm c
  · have hroles := keepsRoles_of_step hinv hstep hop
    exact ⟨hroles.tearFree hfree, hroles.pend⟩

end Sys2Proof.Machine
end

section
/-! SUPPORT. The colour plane selector: a legal colour stored, the mask it gives, and who else writes it (R107 to R112). -/

namespace Sys2Proof.Machine

variable {s t : State} {v : BitVec 16} {i : Instr}

/-! ### The two commands -/

/-- A SETCOL in range stores its operand and responds 1 (R109). -/
theorem exec_setcol_of_legal (hinit : s.initialised = true) (hv : colourLegal v s.cc = true) :
    exec (.setcol v) s = .next ((s.storeColour v).respond 1) :=
  (whenInit_of hinit _ _).trans (congrArg _ (if_pos hv))

/-- A SETCOL out of range responds 0 (R109, R131). -/
theorem exec_setcol_of_illegal (hinit : s.initialised = true) (hv : ¬colourLegal v s.cc = true) :
    exec (.setcol v) s = .next (s.respond 0) :=
  (whenInit_of hinit _ _).trans (congrArg _ (if_neg hv))

theorem exec_getcol (hinit : s.initialised = true) : exec .getcol s = .next (s.respond (s.col.setWidth 32)) :=
  whenInit_of hinit _ _

/-- The operand is the sentinel, as the model tests it (R20). -/
theorem sext16_eq_colMax_iff : sext16 v = colMax s.cc ↔ v.toInt = 2 ^ s.cc.toNat - 1 := by
  rw [colMax_cast, sext16]

/-- The sentinel is a legal colour (R20). -/
theorem colourLegal_of_sentinel (hv : v.toInt = 2 ^ s.cc.toNat - 1) : colourLegal v s.cc = true := by
  refine (colourLegal_iff v s.cc).2 ⟨?_, hv.le⟩
  rw [hv, ← colMax_cast]
  exact Int.natCast_nonneg _

/-- The sentinel starts the cycler with a full period (R109). -/
theorem storeColour_of_sentinel (hv : v.toInt = 2 ^ s.cc.toNat - 1) :
    s.storeColour v = { s with col := v.setWidth 3, cycRun := true, cycCnt := 60 } :=
  if_pos (sext16_eq_colMax_iff.2 hv)

/-- A colour below the sentinel stops the cycler, whose counter holds (R109). -/
theorem storeColour_of_ne_sentinel (hv : v.toInt ≠ 2 ^ s.cc.toNat - 1) :
    s.storeColour v = { s with col := v.setWidth 3, cycRun := false } :=
  if_neg (mt sext16_eq_colMax_iff.1 hv)

/-- Settles O20: in range the command stores the colour (`exec_setcol_of_legal`), which is the operand itself
(`colour_toNat`), and the sentinel tells which way the cycler goes; out of range it only responds. -/
theorem setColourChecksItsRange : Obligations.SetColourChecksItsRange := by
  refine ⟨fun v s h => whenInit_not h _ _, fun s v hinit => ⟨formatI_toNat .., fun hmax => ?_, fun hbelow => ?_,
    fun hout => ?_⟩⟩
  · have hv := colourLegal_of_sentinel hmax
    have he := exec_setcol_of_legal hinit hv
    rw [storeColour_of_sentinel hmax] at he
    exact ⟨_, he, colour_toNat hv, rfl⟩
  · obtain ⟨hlo, hhi⟩ := hbelow
    have hv := (colourLegal_iff v s.cc).2 ⟨hlo, hhi.le⟩
    have he := exec_setcol_of_legal hinit hv
    rw [storeColour_of_ne_sentinel hhi.ne] at he
    exact ⟨_, he, colour_toNat hv, rfl⟩
  · refine exec_setcol_of_illegal hinit fun hv => ?_
    obtain ⟨hlo, hhi⟩ := (colourLegal_iff v s.cc).1 hv
    omega

/-- The response of GETCOL is the colour, zero-extended (R112). -/
theorem toNat_colourResponse (c : BitVec 3) : (c.setWidth 32).toNat = c.toNat :=
  BitVec.toNat_setWidth_of_le (by decide)

/-- A legal SETCOL leaves its operand in COL and keeps the engine initialised (R109). -/
theorem col_of_setcol (hv : colourLegal v s.cc = true) (he : exec (.setcol v) s = .next t) :
    t.initialised = true ∧ (t.col.toNat : Int) = v.toInt := by
  obtain ⟨hinit, -⟩ := whenInit_next.1 he
  cases (exec_setcol_of_legal hinit hv).symm.trans he
  rw [storeColour_eq]
  exact ⟨hinit, colour_toNat hv⟩

/-- Settles O21: GETCOL responds COL (`exec_getcol`), which right after a legal SETCOL is its operand (`col_of_setcol`). -/
theorem getColourReads : Obligations.GetColourReads := by
  refine ⟨by decide, fun s h => whenInit_not h _ _, fun s hinit => ⟨_, toNat_colourResponse s.col, exec_getcol hinit⟩,
    fun s t v hlo hhi he => ?_⟩
  obtain ⟨hinit, hcol⟩ := col_of_setcol ((colourLegal_iff v s.cc).2 ⟨hlo, hhi⟩) he
  exact ⟨_, by rwa [toNat_colourResponse], exec_getcol hinit⟩

/-! ### The mask (R107, R108) -/

/-- The cut to the profile's channels is the remainder modulo `2^cc`, which the low three bits do not affect (R107). -/
theorem toNat_mask (c : BitVec 3) (cc : BitVec 2) : (mask c cc).toNat = (c.toNat + 1) % 2 ^ cc.toNat := by
  have hdvd : 2 ^ cc.toNat ∣ 2 ^ 3 := Nat.pow_dvd_pow 2 (by have := cc.isLt; omega)
  have hand : (c.toNat + 1) &&& 7 = (c.toNat + 1) % 2 ^ 3 := Nat.and_two_pow_sub_one_eq_mod _ 3
  have hlt := Nat.mod_lt (c.toNat + 1) (Nat.two_pow_pos cc.toNat)
  have hle := (two_pow_cc cc).2
  rw [mask, hand, Nat.and_two_pow_sub_one_eq_mod, Nat.mod_mod_of_dvd _ hdvd, BitVec.toNat_ofNat]
  exact Nat.mod_eq_of_lt (by omega)

/-- Settles O22: a bit of `(v + 1) mod 2^cc` is that bit of `v + 1` below `cc`; for a legal `v` the remainder is 0 at the
sentinel alone, where `v + 1` is `2^cc`; and `1 mod 2^cc` is 1 (`toNat_mask`). -/
theorem maskOfEveryColour : Obligations.MaskOfEveryColour := by
  intro c cc hcc
  have hpos := colMax_pos hcc
  rw [colMax] at hpos
  refine ⟨fun i _ => ?_, fun hle => ?_, ?_⟩
  · rw [BitVec.getLsbD, toNat_mask, Nat.testBit_mod_two_pow, Bool.and_comm]
  · rw [← BitVec.toNat_inj, toNat_mask]
    by_cases hmax : c.toNat + 1 = 2 ^ cc.toNat
    · rw [hmax, Nat.mod_self]
      exact ⟨fun _ => by omega, fun _ => rfl⟩
    · rw [Nat.mod_eq_of_lt (by omega)]
      exact ⟨fun h => absurd h (Nat.succ_ne_zero _), fun h => by omega⟩
  · rw [← BitVec.toNat_inj, toNat_mask]
    exact Nat.mod_eq_of_lt (by omega : 0 + 1 < 2 ^ cc.toNat)

/-! ### Who writes the colour and the cycler (R111, R116) -/

/-- The colour and whether the cycler runs are left as they were. -/
structure State.KeepsColour (s t : State) : Prop where
  cycRun : t.cycRun = s.cycRun
  col : t.col = s.col

theorem State.SameButCopy.keepsColour (h : s.SameButCopy t) : s.KeepsColour t :=
  ⟨by rw [h], by rw [h]⟩

theorem keepsColour_of_exec_setframe (hinit : s.initialised = true) (he : exec .setframe s = .next t) :
    s.KeepsColour t := by
  rcases exec_setframe_cases hinit with ⟨-, hx⟩ | ⟨-, u, hu, hcopies⟩
  · cases hx.symm.trans he
    rw [beginCopy_eq]
    exact ⟨rfl, rfl⟩
  · cases hu.symm.trans he
    exact hcopies.frame.keepsColour

/-- After INIT every operation keeps the colour but the colour tick and a SETCOL of a legal value (R111). -/
theorem keepsColour_of_exec (hinit : s.initialised = true) (htick : i ≠ .ctick)
    (hset : ∀ v, i = .setcol v → ¬colourLegal v s.cc = true) (he : exec i s = .next t) : s.KeepsColour t := by
  cases i with
  | ctick => exact absurd rfl htick
  | rtick =>
    cases (exec_rtick s).symm.trans he
    exact ⟨rfl, rfl⟩
  | init cc pol =>
    simp only [exec, execInit, hinit, if_true] at he
    split at he <;> cases he
    exact ⟨rfl, rfl⟩
  | start =>
    obtain ⟨-, rfl⟩ := whenInit_next.1 he
    rw [armIfNot_eq]
    exact ⟨rfl, rfl⟩
  | stop | getbri | getcol | setvar _ =>
    obtain ⟨-, rfl⟩ := whenInit_next.1 he
    exact ⟨rfl, rfl⟩
  | setbri _ | waitsync _ | getpix _ _ =>
    obtain ⟨-, rfl⟩ := whenInit_next.1 he
    split <;> exact ⟨rfl, rfl⟩
  | setcol v =>
    cases (exec_setcol_of_illegal hinit (hset v rfl)).symm.trans he
    exact ⟨rfl, rfl⟩
  | setframe => exact keepsColour_of_exec_setframe hinit he
  | setpix x y d =>
    obtain ⟨-, rfl⟩ := whenInit_next.1 he
    split
    · exact ⟨writeCell_cycRun .., writeCell_col ..⟩
    · exact ⟨rfl, rfl⟩

/-- What a step after INIT does to the colour: it is a SETCOL of a legal value, or the running cycler's tick, which goes on
running, or it keeps the colour (R111). -/
theorem step_colour_cases (hstep : step s = .next t) (hinit : s.initialised = true) :
    s.SetsColour ∨ (s.turn = .interrupt .colourCycle ∧ s.cycRun = true ∧ t.cycRun = s.cycRun) ∨ s.KeepsColour t := by
  obtain ⟨ts, n, hs⟩ := settled_eq s
  rcases step_cases hstep with ⟨-, he⟩ | ⟨hturn, he⟩ | ⟨hturn, i, hport, he⟩ | ⟨-, e, -, rfl⟩ | ⟨-, rfl⟩ | ⟨-, rfl⟩ | ⟨-, rfl⟩
  · exact .inr (.inr (keepsColour_of_exec (i := .rtick) hinit nofun nofun he))
  · cases (exec_ctick s).symm.trans he
    exact .inr (.inl ⟨hturn, (turn_colourCycle hturn).1, rfl⟩)
  · by_cases hset : ∃ v, i = .setcol v ∧ colourLegal v s.cc = true
    · obtain ⟨v, rfl, hv⟩ := hset
      exact .inl ⟨hturn, v, hport, (colourLegal_iff v s.cc).1 hv⟩
    · have hkeep : s.settled.KeepsColour t :=
        keepsColour_of_exec (by rw [hs]; exact hinit) (atPort_command hport).2
          (by rw [hs]; exact fun v hi hv => hset ⟨v, hi, hv⟩) he
      rw [hs] at hkeep
      exact .inr (.inr ⟨hkeep.cycRun, hkeep.col⟩)
  · rw [hs]
    exact .inr (.inr ⟨rfl, rfl⟩)
  · rw [countDwell_eq, hs]
    exact .inr (.inr ⟨rfl, rfl⟩)
  · rw [countCycle_eq, hs]
    exact .inr (.inr ⟨rfl, rfl⟩)
  · exact .inr (.inr ⟨rfl, rfl⟩)

/-- Settles O24, by the three cases of `step_colour_cases`. -/
theorem manualColourIsKept : Obligations.ManualColourIsKept := by
  intro s t hstep hinit
  rcases step_colour_cases hstep hinit with hset | ⟨hturn, hrun, hkeep⟩ | ⟨hrun, hcol⟩
  · exact ⟨fun _ => hset, fun _ => .inl hset⟩
  · exact ⟨fun hne => absurd hkeep hne, fun _ => .inr ⟨hturn, hrun⟩⟩
  · exact ⟨fun hne => absurd hrun hne, fun hne => absurd hcol hne⟩

end Sys2Proof.Machine
end

section
/-! SUPPORT. The colour cycler: the successor in its cycle, and why it never stands at 0 while it runs (R113, R114). -/

namespace Sys2Proof.Machine

variable {s t : State} {c : BitVec 3} {cc : BitVec 2}

/-! ### The successor in the cycle -/

/-- With an empty range the colour stays (R114). -/
theorem nextColour_of_empty (hempty : 2 ^ cc.toNat - 2 < 1) : nextColour c cc = c := if_pos hempty

/-- Otherwise it goes one up inside the range, else to 1; the range ends below 7, so the sum does not wrap (R114). -/
theorem toNat_nextColour (hrange : 1 ≤ 2 ^ cc.toNat - 2) :
    (nextColour c cc).toNat = if 1 ≤ c.toNat ∧ c.toNat < 2 ^ cc.toNat - 2 then c.toNat + 1 else 1 := by
  have hpow := two_pow_cc cc
  rw [nextColour, cycleHigh, if_neg (Nat.not_lt.2 hrange)]
  split
  · exact BitVec.toNat_add_of_lt (by simp only [BitVec.ofNat_eq_ofNat, BitVec.toNat_ofNat]; omega)
  · rfl

/-- The successor is 0 only where the colour was, legal or not (R114). -/
theorem nextColour_ne_zero (hc : c ≠ 0) : nextColour c cc ≠ 0 := by
  rcases Nat.lt_or_ge (2 ^ cc.toNat - 2) 1 with hempty | hrange
  · rwa [nextColour_of_empty hempty]
  · intro h0
    have hnext := toNat_nextColour (c := c) hrange
    rw [h0] at hnext
    split at hnext <;> simp at hnext

/-! ### The cycler is off 0 -/

/-- While the cycler runs, the colour is not 0 (R114). -/
def State.CyclesOffZero (s : State) : Prop := s.cycRun = true → s.col ≠ 0

theorem State.CyclesOffZero.of_keepsColour (h : s.CyclesOffZero) (hkeep : s.KeepsColour t) : t.CyclesOffZero := by
  rwa [CyclesOffZero, hkeep.cycRun, hkeep.col]

theorem State.CyclesOffZero.ctick (h : s.CyclesOffZero) (he : exec .ctick s = .next t) : t.CyclesOffZero := by
  cases (exec_ctick s).symm.trans he
  intro hrun
  exact (if_pos hrun).trans_ne (nextColour_ne_zero (h hrun))

/-- A SETCOL starts the cycler only at the sentinel, which is not 0 (R109). -/
theorem cyclesOffZero_of_setcol {v : BitVec 16} (hcc : s.cc ≠ 0) (hv : colourLegal v s.cc = true)
    (he : exec (.setcol v) s = .next t) : t.CyclesOffZero := by
  obtain ⟨hinit, -⟩ := whenInit_next.1 he
  have hcol := (col_of_setcol hv he).2
  by_cases hmax : v.toInt = 2 ^ s.cc.toNat - 1
  · intro _ h0
    have hpos := colMax_pos hcc
    rw [h0, hmax, ← colMax_cast] at hcol
    simp only [BitVec.ofNat_eq_ofNat, BitVec.toNat_ofNat] at hcol
    omega
  · cases (exec_setcol_of_legal hinit hv).symm.trans he
    rw [storeColour_of_ne_sentinel hmax]
    exact nofun

theorem State.CyclesOffZero.init (h : s.CyclesOffZero) {pol : BitVec 1} (he : exec (.init cc pol) s = .next t) :
    t.CyclesOffZero := by
  simp only [exec, execInit] at he
  split at he
  · cases he
    exact h
  · split at he <;> cases he
    exact nofun

/-- Every operation keeps the running cycler off 0, before INIT too (R114). -/
theorem State.CyclesOffZero.exec (h : s.CyclesOffZero) (hcc : s.cc ≠ 0) {i : Instr} (he : exec i s = .next t) :
    t.CyclesOffZero := by
  cases i with
  | ctick => exact h.ctick he
  | rtick =>
    cases (exec_rtick s).symm.trans he
    exact h
  | init cc pol => exact h.init he
  | setcol v =>
    by_cases hv : colourLegal v s.cc = true
    · exact cyclesOffZero_of_setcol hcc hv he
    · cases (exec_setcol_of_illegal (whenInit_next.1 he).1 hv).symm.trans he
      exact h
  | start | stop | setbri _ | getbri | getcol | setvar _ | setframe | waitsync _ | setpix _ _ _ | getpix _ _ =>
    refine h.of_keepsColour (keepsColour_of_exec (whenInit_next.1 he).1 ?_ ?_ he) <;> exact nofun

theorem State.CyclesOffZero.step (h : s.CyclesOffZero) (hcc : s.cc ≠ 0) (hstep : step s = .next t) :
    t.CyclesOffZero := by
  obtain ⟨ts, n, hs⟩ := settled_eq s
  have hset : s.settled.CyclesOffZero := by rwa [hs]
  rcases step_cases hstep with ⟨-, he⟩ | ⟨-, he⟩ | ⟨-, i, -, he⟩ | ⟨-, e, -, rfl⟩ | ⟨-, rfl⟩ | ⟨-, rfl⟩ | ⟨-, rfl⟩
  · exact h.exec hcc he
  · exact h.exec hcc he
  · exact hset.exec (by rwa [hs]) he
  · exact hset
  · rwa [countDwell_eq]
  · rwa [countCycle_eq]
  · exact h

/-- Settles O23: no word encodes the event (`decodeWord_ok`), the turn tells that it is due (`turn_colourCycle`), every step
keeps the running cycler off 0 (`State.CyclesOffZero.step`), and the tick is one record (`exec_ctick`) whose colour is the
successor in the cycle. -/
theorem colourTickAdvances : Obligations.ColourTickAdvances := by
  refine ⟨fun w hw => (nomatch (decodeWord_ok hw).2), fun s => turn_colourCycle,
    fun s t hcc hoff hstep => State.CyclesOffZero.step hoff hcc hstep,
    fun s => ⟨_, exec_ctick s, rfl, fun hstopped => ?_, fun hrun => ⟨fun hempty => ?_, fun hrange => ?_⟩⟩⟩
  · exact if_neg (ne_true_of_eq_false hstopped)
  · exact (if_pos hrun).trans (nextColour_of_empty hempty)
  · rw [if_pos hrun]
    exact toNat_nextColour hrange

end Sys2Proof.Machine
end

section
/-! SUPPORT. The control commands, one equation a command; then who writes RUN, ARMED and BRI (R117 to R123). -/

namespace Sys2Proof.Machine

variable {s t : State} {cc : BitVec 2} {pol : BitVec 1} {b : BitVec 16} {i : Instr}

/-! ### The six commands -/

/-- The first INIT establishes its state and responds 0 (R117). -/
theorem exec_init_first (hcc : cc ≠ 0) (hinit : s.initialised = false) :
    exec (.init cc pol) s = .next ((s.initialise cc pol).respond 0) :=
  (if_neg hcc).trans (if_neg (ne_true_of_eq_false hinit))

/-- A second INIT violates the precondition (R132). -/
theorem exec_init_again (hcc : cc ≠ 0) (hinit : s.initialised = true) :
    exec (.init cc pol) s = .fault (.preconditionViolation (commandWord (.init cc pol))) :=
  (if_neg hcc).trans (if_pos hinit)

/-- An INIT that answers a next state was a reserved word or the first of its kind (R65, R117). -/
theorem exec_init_cases (he : exec (.init cc pol) s = .next t) :
    t = s.reject ∨ (s.initialised = false ∧ t = (s.initialise cc pol).respond 0) := by
  by_cases hcc : cc = 0
  · rw [exec, execInit, if_pos hcc] at he
    cases he
    exact .inl rfl
  · cases hinit : s.initialised
    · cases (exec_init_first hcc hinit).symm.trans he
      exact .inr ⟨rfl, rfl⟩
    · cases (exec_init_again hcc hinit).symm.trans he

/-- Settles O13: the word by its format, the first INIT as `exec_init_first` has it and any later one as
`exec_init_again`. -/
theorem initEstablishesTheState : Obligations.InitEstablishesTheState :=
  fun _ _ _ hcc => ⟨formatC_toNat .., exec_init_first hcc, exec_init_again hcc⟩

theorem exec_start (hinit : s.initialised = true) :
    exec .start s = .next (({ s with run := true } : State).armIfNot.respond 0) :=
  whenInit_of hinit _ _

/-- Settles O15: setting RUN leaves ARMED, which tells whether the timer is loaded or left as it is (`armIfNot_eq`). -/
theorem startArmsTheFirstExpiry : Obligations.StartArmsTheFirstExpiry := by
  refine ⟨by decide, fun s h => whenInit_not h _ _, fun s hinit => ⟨fun harmed => ?_, fun harmed => ?_⟩⟩
  all_goals
    simp only [exec_start hinit, armIfNot_eq, harmed]
    rfl

theorem exec_stop (hinit : s.initialised = true) :
    exec .stop s = .next (({ s with run := false } : State).respond 0) :=
  whenInit_of hinit _ _

/-- Settles O16, from the command's equation (`exec_stop`). -/
theorem stopClearsRunOnly : Obligations.StopClearsRunOnly :=
  ⟨by decide, fun _ h => whenInit_not h _ _, fun _ => exec_stop⟩

/-- A SETBRI in range stores its operand and responds 1 (R121). -/
theorem exec_setbri_of_legal (hinit : s.initialised = true) (hb : brightnessLegal b = true) :
    exec (.setbri b) s = .next (({ s with bri := b.setWidth 6 } : State).respond 1) :=
  (whenInit_of hinit _ _).trans (congrArg _ (if_pos hb))

/-- A SETBRI out of range responds 0 (R121, R131). -/
theorem exec_setbri_of_illegal (hinit : s.initialised = true) (hb : ¬brightnessLegal b = true) :
    exec (.setbri b) s = .next (s.respond 0) :=
  (whenInit_of hinit _ _).trans (congrArg _ (if_neg hb))

theorem exec_getbri (hinit : s.initialised = true) : exec .getbri s = .next (s.respond (s.bri.setWidth 32)) :=
  whenInit_of hinit _ _

/-- The response of GETBRI is the brightness, zero-extended (R122). -/
theorem toNat_brightnessResponse (x : BitVec 6) : (x.setWidth 32).toNat = x.toNat :=
  BitVec.toNat_setWidth_of_le (by decide)

/-- Settles O17: in range the command stores the operand itself (`exec_setbri_of_legal`, `brightness_toNat`), which GETBRI
then responds; out of range it only responds. -/
theorem setBrightnessChecksItsRange : Obligations.SetBrightnessChecksItsRange := by
  refine ⟨fun b s h => whenInit_not h _ _, fun s b hinit => ⟨formatI_toNat .., fun hin => ?_, fun hout => ?_⟩⟩
  · have hb := (brightnessLegal_iff b).2 hin
    have hbri : ((b.setWidth 6).toNat : Int) = b.toInt := brightness_toNat hb
    exact ⟨_, exec_setbri_of_legal hinit hb, hbri, rfl, _, by rwa [toNat_brightnessResponse], exec_getbri hinit⟩
  · refine exec_setbri_of_illegal hinit fun hb => ?_
    obtain ⟨hlo, hhi⟩ := (brightnessLegal_iff b).1 hb
    omega

theorem exec_setvar (hinit : s.initialised = true) :
    exec (.setvar pol) s = .next (({ s with pol := pol } : State).respond 0) :=
  whenInit_of hinit _ _

/-- Settles O19, from the command's equation (`exec_setvar`). -/
theorem setVariantStoresPolarity : Obligations.SetVariantStoresPolarity :=
  ⟨fun _ _ h => whenInit_not h _ _, fun _ _ hinit => ⟨formatV_toNat .., exec_setvar hinit⟩⟩

/-! ### Who writes RUN, ARMED and BRI -/

/-- RUN, ARMED and BRI are left as they were. -/
structure State.KeepsControl (s t : State) : Prop where
  run : t.run = s.run
  armed : t.armed = s.armed
  bri : t.bri = s.bri

theorem State.KeepsControl.settled (s : State) : s.KeepsControl s.settled := by
  obtain ⟨ts, n, hs⟩ := settled_eq s
  rw [hs]
  exact ⟨rfl, rfl, rfl⟩

theorem State.SameButCopy.keepsControl (h : s.SameButCopy t) : s.KeepsControl t :=
  ⟨by rw [h], by rw [h], by rw [h]⟩

/-- The operations that may write RUN, ARMED or BRI: four commands and the refresh tick. -/
def writesControl : Instr → Bool
  | .init _ _ | .start | .stop | .setbri _ | .rtick => true
  | _ => false

/-- Every other operation keeps the three. -/
theorem keepsControl_of_exec (hi : writesControl i = false) (he : exec i s = .next t) : s.KeepsControl t := by
  cases i with
  | init _ _ | start | stop | setbri _ | rtick => cases hi
  | ctick =>
    cases (exec_ctick s).symm.trans he
    exact ⟨rfl, rfl, rfl⟩
  | getbri | getcol | setvar _ =>
    obtain ⟨-, rfl⟩ := whenInit_next.1 he
    exact ⟨rfl, rfl, rfl⟩
  | waitsync _ | getpix _ _ =>
    obtain ⟨-, rfl⟩ := whenInit_next.1 he
    split <;> exact ⟨rfl, rfl, rfl⟩
  | setcol v =>
    obtain ⟨-, rfl⟩ := whenInit_next.1 he
    rw [storeColour_eq]
    split <;> exact ⟨rfl, rfl, rfl⟩
  | setframe =>
    rcases exec_setframe_cases (whenInit_next.1 he).1 with ⟨-, hx⟩ | ⟨-, u, hu, hcopies⟩
    · cases hx.symm.trans he
      rw [beginCopy_eq]
      exact ⟨rfl, rfl, rfl⟩
    · cases hu.symm.trans he
      exact hcopies.frame.keepsControl
  | setpix x y d =>
    obtain ⟨-, rfl⟩ := whenInit_next.1 he
    split
    · exact ⟨writeCell_run .., writeCell_armed .., writeCell_bri ..⟩
    · exact ⟨rfl, rfl, rfl⟩

/-- Only a refresh tick or a command of the host may change RUN, ARMED or BRI. -/
theorem step_control_cases (hstep : step s = .next t) :
    exec .rtick s = .next t ∨
    (s.turn = .host ∧ ∃ i, s.atPort = some (.ok i) ∧ exec i s.settled = .next t) ∨
    s.KeepsControl t := by
  have hset := State.KeepsControl.settled s
  rcases step_cases hstep with ⟨-, he⟩ | ⟨-, he⟩ | hhost | ⟨-, e, -, rfl⟩ | ⟨-, rfl⟩ | ⟨-, rfl⟩ | ⟨-, rfl⟩
  · exact .inl he
  · exact .inr (.inr (keepsControl_of_exec (i := .ctick) rfl he))
  · exact .inr (.inl hhost)
  · exact .inr (.inr { hset with })
  · rw [countDwell_eq]
    exact .inr (.inr { hset with })
  · rw [countCycle_eq]
    exact .inr (.inr { hset with })
  · exact .inr (.inr ⟨rfl, rfl, rfl⟩)

/-! ### RUN implies ARMED (R120) -/

/-- While the refresh runs, its timer is armed (R120). -/
def State.RunsArmed (s : State) : Prop := s.run = true → s.armed = true

theorem State.RunsArmed.of_keepsControl (h : s.RunsArmed) (hkeep : s.KeepsControl t) : t.RunsArmed := by
  rwa [RunsArmed, hkeep.run, hkeep.armed]

/-- Every operation keeps it, in any state: the tick re-arms the running timer, START arms it, INIT and STOP clear RUN. -/
theorem State.RunsArmed.exec (h : s.RunsArmed) (he : exec i s = .next t) : t.RunsArmed := by
  cases i with
  | rtick =>
    cases (exec_rtick s).symm.trans he
    exact id
  | init cc pol =>
    rcases exec_init_cases he with rfl | ⟨-, rfl⟩
    · exact h
    · exact nofun
  | start =>
    obtain ⟨-, rfl⟩ := whenInit_next.1 he
    rw [armIfNot_eq]
    exact fun _ => rfl
  | stop =>
    obtain ⟨-, rfl⟩ := whenInit_next.1 he
    exact nofun
  | setbri b =>
    obtain ⟨-, rfl⟩ := whenInit_next.1 he
    split <;> exact h
  | getbri | setcol _ | getcol | setvar _ | setframe | waitsync _ | setpix _ _ _ | getpix _ _ | ctick =>
    exact h.of_keepsControl (keepsControl_of_exec rfl he)

theorem State.RunsArmed.step (h : s.RunsArmed) (hstep : step s = .next t) : t.RunsArmed := by
  rcases step_control_cases hstep with he | ⟨-, i, -, he⟩ | hkeep
  · exact h.exec he
  · exact (h.of_keepsControl (.settled s)).exec he
  · exact h.of_keepsControl hkeep

/-- Settles O52: nothing runs at reset, every step keeps the implication (`State.RunsArmed.step`), and a STOP of an armed
engine leaves it armed (`exec_stop`). -/
theorem runImpliesArmed : Obligations.RunImpliesArmed :=
  ⟨nofun, fun _ _ h => State.RunsArmed.step h, fun _ hinit harmed => ⟨_, exec_stop hinit, harmed, rfl⟩⟩

/-! ### Who writes BRI (R121, R122) -/

/-- After INIT an operation that changes BRI is a SETBRI of a legal value. -/
theorem setbri_of_exec_changes_bri (hinit : s.initialised = true) (he : exec i s = .next t) (hne : t.bri ≠ s.bri) :
    ∃ b, i = .setbri b ∧ brightnessLegal b = true := by
  cases i with
  | rtick =>
    cases (exec_rtick s).symm.trans he
    exact absurd rfl hne
  | init cc pol =>
    rcases exec_init_cases he with rfl | ⟨hfirst, -⟩
    · exact absurd rfl hne
    · exact absurd hinit (ne_true_of_eq_false hfirst)
  | start =>
    obtain ⟨-, rfl⟩ := whenInit_next.1 he
    rw [armIfNot_eq] at hne
    exact absurd rfl hne
  | stop =>
    obtain ⟨-, rfl⟩ := whenInit_next.1 he
    exact absurd rfl hne
  | setbri b =>
    refine ⟨b, rfl, by_contra fun hb => ?_⟩
    cases (exec_setbri_of_illegal hinit hb).symm.trans he
    exact hne rfl
  | getbri | setcol _ | getcol | setvar _ | setframe | waitsync _ | setpix _ _ _ | getpix _ _ | ctick =>
    exact absurd (keepsControl_of_exec rfl he).bri hne

/-- After INIT a step that changes BRI is the host's, of a legal SETBRI (R122). -/
theorem setbri_of_step_changes_bri (hstep : step s = .next t) (hinit : s.initialised = true) (hne : t.bri ≠ s.bri) :
    s.turn = .host ∧ ∃ b, s.atPort = some (.ok (.setbri b)) ∧ brightnessLegal b = true := by
  rcases step_control_cases hstep with he | ⟨hturn, i, hport, he⟩ | hkeep
  · obtain ⟨b, hi, -⟩ := setbri_of_exec_changes_bri hinit he hne
    cases hi
  · have hinit' : s.settled.initialised = true := by
      obtain ⟨ts, n, hs⟩ := settled_eq s
      rwa [hs]
    rw [← (State.KeepsControl.settled s).bri] at hne
    obtain ⟨b, rfl, hb⟩ := setbri_of_exec_changes_bri hinit' he hne
    exact ⟨hturn, b, hport, hb⟩
  · exact absurd hkeep.bri hne

/-- GETBRI right after the first INIT responds BRIGHTNESS_INIT (R122). -/
theorem exec_getbri_after_init (hcc : cc ≠ 0) (he : exec (.init cc pol) s = .next t) :
    exec .getbri t = .next (t.respond (Config.brightnessInit.setWidth 32)) := by
  cases hinit : s.initialised
  · cases (exec_init_first hcc hinit).symm.trans he
    exact exec_getbri rfl
  · cases (exec_init_again hcc hinit).symm.trans he

/-- Settles O18: GETBRI responds BRI (`exec_getbri`), which is BRIGHTNESS_INIT after INIT (`exec_getbri_after_init`) and
changes only by a legal SETBRI (`setbri_of_step_changes_bri`). -/
theorem getBrightnessReads : Obligations.GetBrightnessReads := by
  refine ⟨by decide, fun s h => whenInit_not h _ _,
    fun s hinit => ⟨_, toNat_brightnessResponse s.bri, exec_getbri hinit⟩,
    fun s t cc pol hcc he => ⟨_, toNat_brightnessResponse _, exec_getbri_after_init hcc he⟩,
    fun s t hstep hinit hne => ?_⟩
  obtain ⟨hturn, b, hport, hb⟩ := setbri_of_step_changes_bri hstep hinit hne
  exact ⟨hturn, b, hport, (brightnessLegal_iff b).1 hb⟩

end Sys2Proof.Machine
end

section
/-! SUPPORT. The order of the turns (R135 to R137, R101, R162), and what stops a step (R132, R134). -/

namespace Sys2Proof.Machine

variable {s : State} {i : Instr} {f : Fault}

/-! ### The conditions on a turn (R101, R135, R136) -/

theorem refreshPending_iff : s.refreshPending = true ↔ s.armed = true ∧ s.dwellCnt = 0 := by
  simp [State.refreshPending]

theorem cyclePending_iff : s.cyclePending = true ↔ s.cycRun = true ∧ s.cycCnt = 0 := by
  simp [State.cyclePending]

theorem hostReady_iff : s.hostReady = true ↔ s.cmds ≠ [] ∧ ¬(s.hostOp = .waiting ∧ s.inuse ≠ s.pub) := by
  simp [State.hostReady, State.hostBlocked, State.synced, imp_iff_not_or]

/-! ### Whose turn it is (R137) -/

theorem turn_refresh_iff : s.turn = .interrupt .refresh ↔ s.refreshPending = true :=
  ⟨fun h => refreshPending_iff.2 (turn_refresh h), turn_of_refreshPending⟩

theorem turn_colourCycle_iff :
    s.turn = .interrupt .colourCycle ↔ s.refreshPending ≠ true ∧ s.cyclePending = true := by
  refine ⟨fun h => ⟨fun hr => ?_, cyclePending_iff.2 (turn_colourCycle h)⟩, fun ⟨hr, hc⟩ =>
    turn_of_cyclePending (Bool.eq_false_iff.2 hr) hc⟩
  cases h.symm.trans (turn_of_refreshPending hr)

theorem turn_idle (h : s.turn = .idle) : s.movers = [] := by
  rcases turn_cases s with ⟨-, ht⟩ | ⟨-, -, ht⟩ | ⟨-, -, ⟨hm, -⟩ | ⟨m, -, ht⟩⟩
  · cases h.symm.trans ht
  · cases h.symm.trans ht
  · exact hm
  · cases m <;> cases h.symm.trans ht

/-- Settles O2: an interrupt's turn is its being pending (`turn_refresh_iff`, `turn_colourCycle_iff`), the host's turn is a
mover's (`turn_mover`), and at an idle turn nobody is able to move (`turn_idle`). -/
theorem priorityOfPendingInterrupts : Obligations.PriorityOfPendingInterrupts := by
  intro s
  rw [← refreshPending_iff, ← cyclePending_iff]
  refine ⟨turn_refresh_iff, turn_colourCycle_iff, fun h => ?_, fun h => ?_⟩
  · obtain ⟨hm, hr, hc⟩ := turn_mover (m := .host) h
    exact ⟨ne_true_of_eq_false hr, ne_true_of_eq_false hc, hostReady_iff.1 (mem_movers_host.1 hm)⟩
  · have hnone : ∀ m, m ∉ s.movers := List.eq_nil_iff_forall_not_mem.1 (turn_idle h)
    refine ⟨Bool.eq_false_iff.2 (mt mem_movers_dwellUnit.2 (hnone _)),
      Bool.eq_false_iff.2 (mt mem_movers_cycUnit.2 (hnone _)), ?_⟩
    have hready := mt (mem_movers_host.2 ∘ hostReady_iff.2) (hnone _)
    rwa [not_and_or, not_not, not_not] at hready

/-- Settles O3: naming a mover makes it the choice, and the choice is followed where it is able to move
(`chooseMover_of_mem`). -/
theorem anyAbleMoverMayMove : Obligations.AnyAbleMoverMayMove :=
  fun s m hr hc hm =>
    (turn_of_not_pending (s := { s with turns := m :: s.turns }) hr hc).trans (chooseMover_of_mem hm)

/-! ### What stops a step (R132, R134) -/

theorem whenInit_eq (s : State) (i : Instr) (t : State) :
    s.whenInit i t = if !s.initialised then .fault (.preconditionViolation (commandWord i)) else .next t := by
  cases h : s.initialised
  · exact whenInit_not h i t
  · exact whenInit_of h i t

/-- An operation whose precondition is violated faults with its word, and any other completes (R132). -/
theorem exec_eq_fault_or_next (i : Instr) (s : State) :
    ∃ t, exec i s = if Safety.violates i s then .fault (.preconditionViolation (commandWord i)) else .next t := by
  cases i
  case init cc pol =>
    by_cases hcc : cc = 0
    · exact ⟨s.reject, by simp [exec, execInit, Safety.violates, hcc]⟩
    · have hv : Safety.violates (.init cc pol) s = s.initialised := by
        rw [Safety.violates, decide_eq_true hcc, Bool.true_and]
      exact ⟨_, (if_neg hcc).trans (by rw [hv])⟩
  case rtick => exact ⟨_, exec_rtick s⟩
  case ctick => exact ⟨_, exec_ctick s⟩
  all_goals exact ⟨_, whenInit_eq s _ _⟩

theorem exec_fault_iff :
    exec i s = .fault f ↔ Safety.violates i s = true ∧ f = .preconditionViolation (commandWord i) := by
  obtain ⟨t, ht⟩ := exec_eq_fault_or_next i s
  rw [ht]
  split <;> simp [*, eq_comm]

theorem exec_not_refused (i : Instr) (s : State) (r : Refusal) : exec i s ≠ .refused r := by
  obtain ⟨t, ht⟩ := exec_eq_fault_or_next i s
  rw [ht]
  split <;> nofun

/-- Settling the choice decides no precondition (R132). -/
theorem violates_settled (i : Instr) (s : State) : Safety.violates i s.settled = Safety.violates i s := by
  obtain ⟨ts, n, hs⟩ := settled_eq s
  rw [hs]
  rfl

/-- A step that faults is the host's, and the operation at its port faults: the handlers and the units of time complete. -/
theorem step_fault_iff :
    step s = .fault f ↔ s.turn = .host ∧ ∃ i, s.atPort = some (.ok i) ∧ exec i s.settled = .fault f := by
  refine ⟨fun h => ?_, fun ⟨ht, i, hport, hexec⟩ => (step_host_ok ht hport).trans hexec⟩
  cases ht : s.turn with
  | interrupt src =>
    cases src with
    | refresh =>
      simp only [step, ht, exec_rtick] at h
      cases h
    | colourCycle =>
      simp only [step, ht, exec_ctick] at h
      cases h
  | host =>
    obtain ⟨w, -, -, hport⟩ := hostReady_atPort (turn_host ht)
    cases hw : decodeWord w with
    | ok i =>
      rw [hw] at hport
      exact ⟨rfl, i, hport, (step_host_ok ht hport).symm.trans h⟩
    | error e =>
      rw [hw] at hport
      cases (step_host_error ht hport).symm.trans h
  | dwellUnit | cycUnit | idle =>
    simp only [step, ht] at h
    cases h

/-- Settles O12: an operation faults exactly on a violation (`exec_fault_iff`) and is never refused, and a step faults exactly
when the host's operation does (`step_fault_iff`). -/
theorem onlyPreconditionViolationsStop : Obligations.OnlyPreconditionViolationsStop := by
  refine ⟨fun _ _ _ => exec_fault_iff, exec_not_refused, fun s f => ?_⟩
  simp only [step_fault_iff, exec_fault_iff, violates_settled]

end Sys2Proof.Machine
end

section
/-! SUPPORT. Reset, the quiescent engine, the publish-twice hazard and the time of a frame (R147, R150, R161, R163). -/

namespace Sys2Proof.Machine

variable {s : State}

/-! ### An engine with both timers off (R147, R163) -/

/-- With no timer running, the host takes the turn if it is ready, and else nobody does. -/
theorem turn_of_timers_off (harmed : s.armed = false) (hcyc : s.cycRun = false) :
    s.turn = if s.hostReady then .host else .idle := by
  have hr : s.refreshPending = false := by rw [State.refreshPending, harmed, Bool.false_and]
  have hc : s.cyclePending = false := by rw [State.cyclePending, hcyc, Bool.false_and]
  rw [turn_of_not_pending hr hc, State.movers, harmed, hcyc]
  cases s.hostReady <;> rfl

/-- Settles O11: the flags and pins are the reset record's own, and with both timers off only a host with a word takes a turn
(`turn_of_timers_off`). -/
theorem resetState : Obligations.ResetState :=
  ⟨rfl, rfl, rfl, rfl, rfl, rfl, rfl, rfl, rfl, rfl, rfl,
    fun w ws => ⟨turn_of_timers_off (s := { State.reset with cmds := w :: ws }) rfl rfl, turn_of_timers_off rfl rfl⟩⟩

/-- Settles O59: the invariant makes an unarmed engine dark and stopped, and with both timers off the turn is the host's
exactly when a word is there (`turn_of_timers_off`, `hostReady_iff`). -/
theorem quiescentIsDark : Obligations.QuiescentIsDark := by
  intro s hinv hop harmed hcyc
  have hready : s.hostReady = true ↔ s.cmds ≠ [] := by simp [hostReady_iff, hop]
  refine ⟨hinv.idleDark harmed, Bool.eq_false_iff.2 fun hrun => ?_, ?_⟩
  · exact ne_true_of_eq_false harmed (hinv.runArmed hrun)
  · rw [turn_of_timers_off harmed hcyc]
    split
    case isTrue h => exact ⟨.inl rfl, nofun, fun hnil => absurd hnil (hready.1 h)⟩
    case isFalse h => exact ⟨.inr rfl, fun _ => not_not.1 (mt hready.2 h), fun _ => rfl⟩

/-! ### The publish-twice hazard (R150) -/

/-- Settles O36: a copy writes slot PEND (`exec_setframe_copies`), here the one in use, and the exchange publishes that slot
with INUSE untouched (`exec_setframe_exchanges`). -/
theorem publishTwiceHazard : Obligations.PublishTwiceHazard := by
  intro s hinit hop htwice
  refine ⟨fun hleft => ?_, fun hall => ?_⟩
  · rw [← alreadyCopied_of_copying hop] at hleft
    obtain ⟨-, t, he, hcopies⟩ := exec_setframe_copies hinit hleft
    rw [beginCopy_of_copying hop] at hcopies
    refine ⟨t, he, hcopies.frame.inuse, ?_⟩
    rw [hcopies.frame.inuse, ← htwice]
    exact hcopies.written
  · exact ⟨_, exec_setframe_exchanges hinit hop hall, rfl, htwice.symm⟩

/-! ### The duration of a frame (R160, R161) -/

/-- Passes in a row take the sum of their dwells, in dwell units, and one tick's work each (R160). -/
theorem sum_tickInterval (l : List (BitVec 2)) :
    (l.map tickInterval).sum = (l.map fun k => (Config.sched k).toNat).sum * tDwellUnit + l.length * tShift := by
  induction l with
  | nil => simp
  | cons k l ih =>
    rw [List.map_cons, List.sum_cons, ih, tickInterval, dwellTime, List.map_cons, List.sum_cons, List.length_cons]
    ring

/-- Settles O47: the 64 passes of a frame dwell 1248 units in all, and their times add up (`sum_tickInterval`). -/
theorem frameDuration : Obligations.FrameDuration := by
  have hunits : (framePlanes.map fun k => (Config.sched k).toNat).sum = 1248 := by decide
  have hpasses : framePlanes.length = 64 := by decide
  rw [Obligations.FrameDuration, frameTime, sum_tickInterval, hunits, hpasses]

end Sys2Proof.Machine
end

section
/-! SUPPORT. Progress in a run: a measure that a mover drives down, and what one step does to the measure of the dwell timer,
of the cycler and of the host's command (R159, R162). -/

namespace Sys2Proof.Machine

variable {s t : State} {i : Instr} {c : Nat}

/-! ### A measure that a mover drives down -/

/-- Mover `m` is able to move, and the step from `s` to `t` raises `work` in no case and lowers it if `m` moves. -/
structure State.Advances (s : State) (m : Mover) (work : State → Nat) (t : State) : Prop where
  able : m ∈ s.movers
  le : work t ≤ work s
  lt : s.turn = turnOf m → work t < work s

/-- Where each step from a state with `I` either has `P` to come or keeps `I` and advances, `P` comes: a fair run cannot
lower the measure for ever (R162). -/
theorem Run.progress {r : Nat → State} (hr : Run r) {I : State → Prop} {P : Nat → Prop} (m : Mover) (work : State → Nat)
    (hstep : ∀ k, I (r k) → (∃ j ≥ k, P j) ∨ (I (r (k + 1)) ∧ (r k).Advances m work (r (k + 1)))) {n : Nat}
    (hn : I (r n)) : ∃ k ≥ n, P k := by
  by_contra hnever
  have hgoes : ∀ k ≥ n, I (r k) → I (r (k + 1)) ∧ (r k).Advances m work (r (k + 1)) := fun k hk hI =>
    (hstep k hI).resolve_left fun ⟨j, hj, hP⟩ => hnever ⟨j, hk.trans hj, hP⟩
  have hI : ∀ k ≥ n, I (r k) := fun k hk => Nat.le_induction hn (fun j hj h => (hgoes j hj h).1) k hk
  have hadv : ∀ k ≥ n, (r k).Advances m work (r (k + 1)) := fun k hk => (hgoes k hk (hI k hk)).2
  obtain ⟨k, hk, hmin⟩ := (measure fun k => work (r k)).wf.has_min (Set.Ici n) ⟨n, Set.self_mem_Ici⟩
  have hmono : ∀ j ≥ k, work (r j) ≤ work (r k) := fun j hj =>
    Nat.le_induction le_rfl (fun i hi h => (hadv i (hk.trans hi)).le.trans h) j hj
  obtain ⟨j, hj, hturn⟩ := hr.fair k fun i hi => (hadv i (hk.trans hi)).able
  exact hmin (j + 1) ((hk.trans hj).trans j.le_succ) (((hadv j (hk.trans hj)).lt hturn).trans_le (hmono j hj))

/-- Every state of a run meets the invariant, if the first does. -/
theorem Run.inv {r : Nat → State} (hr : Run r) (h0 : (r 0).Inv) (n : Nat) : (r n).Inv := by
  induction n with
  | zero => exact h0
  | succ n ih => exact ih.step (hr n)

/-- An engine on which anything runs has had its INIT (R147). -/
theorem State.Inv.initialised_of_busy (h : s.Inv) (hbusy : s.armed = true ∨ s.cycRun = true ∨ s.hostOp ≠ .idle) :
    s.initialised = true := by
  by_contra hinit
  obtain ⟨-, harmed, hcyc, hop⟩ := h.beforeInit (Bool.eq_false_iff.2 hinit)
  simp [harmed, hcyc, hop] at hbusy

/-! ### The turn of a timer's unit -/

/-- A dwell unit's step, from the one next state that it has (R28). -/
theorem step_dwellUnit (hturn : s.turn = .dwellUnit) (hstep : step s = .next t) :
    t.dwellCnt.toNat + 1 = s.dwellCnt.toNat ∧ t = { s with dwellCnt := t.dwellCnt, turns := t.turns, draws := t.draws } := by
  obtain ⟨u, hu, hcount⟩ := (timerUnitCountsDown s).1 hturn
  cases hu.symm.trans hstep
  exact hcount

/-- A cycle unit's step, from the one next state that it has (R29). -/
theorem step_cycUnit (hturn : s.turn = .cycUnit) (hstep : step s = .next t) :
    t.cycCnt.toNat + 1 = s.cycCnt.toNat ∧ t = { s with cycCnt := t.cycCnt, turns := t.turns, draws := t.draws } := by
  obtain ⟨u, hu, hcount⟩ := (timerUnitCountsDown s).2 hturn
  cases hu.symm.trans hstep
  exact hcount

/-! ### The dwell timer -/

/-- ARMED, DWELL_CNT and the scan position are left as they were. -/
structure State.KeepsDwell (s t : State) : Prop where
  armed : t.armed = s.armed
  dwellCnt : t.dwellCnt = s.dwellCnt
  pc : t.pc = s.pc

theorem State.KeepsDwell.settled (s : State) : s.KeepsDwell s.settled := by
  obtain ⟨ts, n, hs⟩ := settled_eq s
  rw [hs]
  exact ⟨rfl, rfl, rfl⟩

theorem State.SameButCopy.keepsDwell (h : s.SameButCopy t) : s.KeepsDwell t :=
  ⟨by rw [h], by rw [h], by rw [h]; rfl⟩

/-- After INIT no operation but the refresh tick touches an armed dwell timer or the scan position (R118, R119). -/
theorem keepsDwell_of_exec (hinit : s.initialised = true) (harmed : s.armed = true) (htick : i ≠ .rtick)
    (he : exec i s = .next t) : s.KeepsDwell t := by
  cases i with
  | rtick => exact absurd rfl htick
  | ctick =>
    cases (exec_ctick s).symm.trans he
    exact ⟨rfl, rfl, rfl⟩
  | init cc pol =>
    rcases exec_init_cases he with rfl | ⟨hfirst, -⟩
    · exact ⟨rfl, rfl, rfl⟩
    · exact absurd hinit (ne_true_of_eq_false hfirst)
  | start =>
    obtain ⟨-, rfl⟩ := whenInit_next.1 he
    rw [armIfNot_eq]
    exact ⟨harmed.symm, if_pos harmed, rfl⟩
  | stop | getbri | getcol | setvar _ =>
    obtain ⟨-, rfl⟩ := whenInit_next.1 he
    exact ⟨rfl, rfl, rfl⟩
  | setbri _ | waitsync _ | getpix _ _ =>
    obtain ⟨-, rfl⟩ := whenInit_next.1 he
    split <;> exact ⟨rfl, rfl, rfl⟩
  | setcol v =>
    obtain ⟨-, rfl⟩ := whenInit_next.1 he
    rw [storeColour_eq]
    split <;> exact ⟨rfl, rfl, rfl⟩
  | setframe =>
    rcases exec_setframe_cases hinit with ⟨-, hx⟩ | ⟨-, u, hu, hcopies⟩
    · cases hx.symm.trans he
      rw [beginCopy_eq]
      exact ⟨rfl, rfl, rfl⟩
    · cases hu.symm.trans he
      exact hcopies.frame.keepsDwell
  | setpix x y d =>
    obtain ⟨-, rfl⟩ := whenInit_next.1 he
    split
    · exact ⟨writeCell_armed .., writeCell_dwellCnt .., by simp [State.pc]⟩
    · exact ⟨rfl, rfl, rfl⟩

/-- Between two refresh ticks the timer stays armed, the scan position stays, and each dwell unit brings the tick nearer. -/
theorem step_before_refresh (hinit : s.initialised = true) (harmed : s.armed = true) (hturn : s.turn ≠ .interrupt .refresh)
    (hstep : step s = .next t) : t.armed = true ∧ t.pc = s.pc ∧ s.Advances .dwellUnit (·.dwellCnt.toNat) t := by
  have hable : Mover.dwellUnit ∈ s.movers := mem_movers_dwellUnit.2 harmed
  by_cases hunit : s.turn = .dwellUnit
  · obtain ⟨hcount, ht⟩ := step_dwellUnit hunit hstep
    refine ⟨by rw [ht]; exact harmed, by rw [ht]; rfl, hable, ?_, fun _ => ?_⟩
    all_goals omega
  · have hset := State.KeepsDwell.settled s
    suffices h : s.KeepsDwell t from
      ⟨h.armed.trans harmed, h.pc, hable, by rw [h.dwellCnt], fun h' => absurd h' hunit⟩
    rcases step_cases hstep with ⟨ht, -⟩ | ⟨-, he⟩ | ⟨-, i, hp, he⟩ | ⟨-, e, -, rfl⟩ | ⟨ht, -⟩ | ⟨-, rfl⟩ | ⟨-, rfl⟩
    · exact absurd ht hturn
    · exact keepsDwell_of_exec (i := .ctick) hinit harmed nofun he
    · obtain ⟨ts, n, hs⟩ := settled_eq s
      have h := keepsDwell_of_exec (by rw [hs]; exact hinit) (hset.armed.trans harmed) (atPort_command hp).1 he
      exact ⟨h.armed.trans hset.armed, h.dwellCnt.trans hset.dwellCnt, h.pc.trans hset.pc⟩
    · exact { hset with }
    · exact absurd ht hunit
    · rw [countCycle_eq]
      exact { hset with }
    · exact ⟨rfl, rfl, rfl⟩

/-! ### The host's command -/

/-- HOST_OP, COPIED, the words at the port and PUB are left as they were. -/
structure State.KeepsHost (s t : State) : Prop where
  hostOp : t.hostOp = s.hostOp
  copied : t.copied = s.copied
  cmds : t.cmds = s.cmds
  pub : t.pub = s.pub

/-- Only the host's own steps touch its command (R54). -/
theorem keepsHost_of_step (hturn : s.turn ≠ .host) (hstep : step s = .next t) : s.KeepsHost t := by
  obtain ⟨ts, n, hs⟩ := settled_eq s
  rcases step_cases hstep with ⟨-, he⟩ | ⟨-, he⟩ | ⟨ht, -⟩ | ⟨ht, -⟩ | ⟨-, rfl⟩ | ⟨-, rfl⟩ | ⟨-, rfl⟩
  · cases (exec_rtick s).symm.trans he
    exact ⟨rfl, rfl, rfl, rfl⟩
  · cases (exec_ctick s).symm.trans he
    exact ⟨rfl, rfl, rfl, rfl⟩
  · exact absurd ht hturn
  · exact absurd ht hturn
  · rw [countDwell_eq, hs]
    exact ⟨rfl, rfl, rfl, rfl⟩
  · rw [countCycle_eq, hs]
    exact ⟨rfl, rfl, rfl, rfl⟩
  · exact ⟨rfl, rfl, rfl, rfl⟩

/-- How many cells a SETFRAME at the port has yet to copy (R96). -/
def State.copiesLeft (s : State) : Nat := (uncopied s.alreadyCopied).length

theorem State.KeepsHost.copiesLeft (h : s.KeepsHost t) : t.copiesLeft = s.copiesLeft := by
  rw [State.copiesLeft, State.copiesLeft, State.alreadyCopied, State.alreadyCopied, h.hostOp, h.copied]

theorem uncopied_addCopied (l : List Nat) (c : Nat) : uncopied (addCopied l c) = (uncopied l).filter (· ≠ c) := by
  rw [uncopied, uncopied, List.filter_filter]
  refine List.filter_congr fun d _ => ?_
  rw [Bool.eq_iff_iff]
  simp [mem_addCopied]

/-- A copy leaves one cell fewer to copy (R97). -/
theorem State.Copies.copiesLeft_lt (h : s.Copies c t) (hc : c ∈ uncopied s.alreadyCopied) : t.copiesLeft < s.copiesLeft := by
  rw [State.copiesLeft, State.copiesLeft, alreadyCopied_of_copying h.hostOp, h.copied, uncopied_addCopied]
  exact List.length_filter_lt_length_iff_exists.2 ⟨c, hc, by simp⟩

/-- A command that completes has its word gone from the port; else it is a copy of a SETFRAME or a WAITSYNC that waits
(R61, R96, R100). -/
theorem exec_command_cases (hevent : i ≠ .rtick ∧ i ≠ .ctick) (he : exec i s = .next t) :
    t.cmds = s.cmds.tail ∨ (∃ c ∈ uncopied s.alreadyCopied, s.Copies c t) ∨ t = { s with hostOp := .waiting } := by
  cases i with
  | rtick => exact absurd rfl hevent.1
  | ctick => exact absurd rfl hevent.2
  | init cc pol => rcases exec_init_cases he with rfl | ⟨-, rfl⟩ <;> exact .inl rfl
  | start =>
    obtain ⟨-, rfl⟩ := whenInit_next.1 he
    rw [armIfNot_eq]
    exact .inl rfl
  | stop | getbri | getcol | setvar _ =>
    obtain ⟨-, rfl⟩ := whenInit_next.1 he
    exact .inl rfl
  | setbri _ | getpix _ _ =>
    obtain ⟨-, rfl⟩ := whenInit_next.1 he
    split <;> exact .inl rfl
  | setcol v =>
    obtain ⟨-, rfl⟩ := whenInit_next.1 he
    rw [storeColour_eq]
    split <;> exact .inl rfl
  | setframe =>
    rcases exec_setframe_cases (whenInit_next.1 he).1 with ⟨-, hx⟩ | ⟨hmem, u, hu, hcopies⟩
    · cases hx.symm.trans he
      rw [beginCopy_eq]
      exact .inl rfl
    · cases hu.symm.trans he
      exact .inr (.inl ⟨_, hmem, hcopies⟩)
  | waitsync v =>
    obtain ⟨-, rfl⟩ := whenInit_next.1 he
    split
    · exact .inl rfl
    · exact .inr (.inr rfl)
  | setpix x y d =>
    obtain ⟨-, rfl⟩ := whenInit_next.1 he
    split
    · exact .inl (congrArg List.tail (writeCell_cmds ..))
    · exact .inl rfl

/-- A step of the host that answers nothing: its word stays, and it waits or has fewer cells to copy. -/
structure State.GoesOn (s t : State) : Prop where
  cmds : t.cmds = s.cmds
  cycCnt : t.cycCnt = s.cycCnt
  nearer : t.hostOp = .waiting ∨ t.copiesLeft < s.copiesLeft

/-- A host step completes the command at the port or goes on with it (R61, R96, R100). -/
theorem step_host_cases (hturn : s.turn = .host) (hstep : step s = .next t) :
    t.cmds = s.cmds.tail ∨ s.GoesOn t := by
  obtain ⟨w, -, -, hport⟩ := hostReady_atPort (turn_host hturn)
  obtain ⟨ts, n, hs⟩ := settled_eq s
  cases hw : decodeWord w with
  | error e =>
    rw [hw] at hport
    cases (step_host_error hturn hport).symm.trans hstep
    rw [hs]
    exact .inl rfl
  | ok i =>
    rw [hw] at hport
    rw [step_host_ok hturn hport, hs] at hstep
    rcases exec_command_cases (atPort_command hport) hstep with hcmds | ⟨c, hc, hcopies⟩ | rfl
    · exact .inl hcmds
    · exact .inr ⟨hcopies.frame.cmds, by rw [hcopies.frame], .inr (hcopies.copiesLeft_lt hc)⟩
    · exact .inr ⟨rfl, rfl, .inl rfl⟩

/-! ### The cycler -/

/-- The cycle units till the next colour tick, with a whole period and more for each word the host has yet to send: a SETCOL
of the sentinel loads the period anew (R109). -/
def State.cycleWork (s : State) : Nat := s.cmds.length * 64 + s.cycCnt.toNat

/-- Between two colour ticks each cycle unit brings the tick nearer, and so does each word that the host sends. -/
theorem advances_cycleWork (hrun : s.cycRun = true) (hturn : s.turn ≠ .interrupt .colourCycle)
    (hstep : step s = .next t) : s.Advances .cycUnit State.cycleWork t := by
  have hable : Mover.cycUnit ∈ s.movers := mem_movers_cycUnit.2 hrun
  cases hs : s.turn with
  | interrupt src =>
    cases src with
    | colourCycle => exact absurd hs hturn
    | refresh =>
      have he : step s = exec .rtick s := by simp only [step, hs]
      cases (exec_rtick s).symm.trans (he.symm.trans hstep)
      exact ⟨hable, le_rfl, fun h => nomatch hs.symm.trans h⟩
  | host =>
    obtain ⟨w, ws, hcmds, -⟩ := hostReady_atPort (turn_host hs)
    refine ⟨hable, ?_, fun h => nomatch hs.symm.trans h⟩
    rcases step_host_cases hs hstep with hdone | hmore
    · have hcnt := t.cycCnt.isLt
      rw [State.cycleWork, State.cycleWork, hdone, hcmds, List.tail_cons, List.length_cons]
      omega
    · rw [State.cycleWork, State.cycleWork, hmore.cmds, hmore.cycCnt]
  | dwellUnit =>
    rw [(step_dwellUnit hs hstep).2]
    exact ⟨hable, le_rfl, fun h => nomatch hs.symm.trans h⟩
  | cycUnit =>
    obtain ⟨hcount, -⟩ := step_cycUnit hs hstep
    have hcmds := (keepsHost_of_step (hs.trans_ne nofun) hstep).cmds
    refine ⟨hable, ?_, fun _ => ?_⟩
    all_goals
      rw [State.cycleWork, State.cycleWork, hcmds]
      omega
  | idle =>
    have he : step s = .next s := by simp only [step, hs]
    cases he.symm.trans hstep
    exact ⟨hable, le_rfl, fun h => nomatch hs.symm.trans h⟩

end Sys2Proof.Machine
end

section
/-! SUPPORT. Every run is fair (R101, R162): what eventually happens to the two timers, to a waiting host, and to the
host's command. -/

namespace Sys2Proof.Machine

variable {r : Nat → State} {n : Nat} {w : Word} {ws : List Word}

/-! ### The two timers (R159) -/

/-- A refresh tick comes while the timer is armed. -/
theorem Run.refresh_tick (hr : Run r) (h0 : (r 0).Inv) (harmed : (r n).armed = true) :
    ∃ m ≥ n, (r m).turn = .interrupt .refresh := by
  refine hr.progress (I := fun s => s.armed = true) .dwellUnit (·.dwellCnt.toNat) (fun k harmed => ?_) harmed
  by_cases hturn : (r k).turn = .interrupt .refresh
  · exact .inl ⟨k, le_rfl, hturn⟩
  · have hinit := (hr.inv h0 k).initialised_of_busy (.inl harmed)
    obtain ⟨harmed', -, hadv⟩ := step_before_refresh hinit harmed hturn (hr k)
    exact .inr ⟨harmed', hadv⟩

/-- A colour tick comes unless the cycler stops. -/
theorem Run.colour_tick (hr : Run r) (n : Nat) :
    ∃ m ≥ n, (r m).turn = .interrupt .colourCycle ∨ (r m).cycRun = false := by
  refine hr.progress (I := fun _ => True) .cycUnit State.cycleWork (fun k _ => ?_) trivial
  by_cases hrun : (r k).cycRun = true
  · by_cases hturn : (r k).turn = .interrupt .colourCycle
    · exact .inl ⟨k, le_rfl, .inl hturn⟩
    · exact .inr ⟨trivial, advances_cycleWork hrun hturn (hr k)⟩
  · exact .inl ⟨k, le_rfl, .inr (Bool.eq_false_iff.2 hrun)⟩

/-! ### A waiting host (R100, R101) -/

/-- The host's WAITSYNC, the first of the words `l`, has not been answered. -/
def State.WaitsWith (l : List Word) (s : State) : Prop := s.hostOp = .waiting ∧ s.cmds = l

theorem State.KeepsHost.waitsWith {s t : State} {l : List Word} (h : s.KeepsHost t) (hw : s.WaitsWith l) :
    t.WaitsWith l :=
  ⟨h.hostOp.trans hw.1, h.cmds.trans hw.2⟩

/-- An unarmed engine leaves a host that waits for an adoption hung (R101). -/
theorem State.Inv.hung {s : State} (h : s.Inv) (hop : s.hostOp = .waiting) (hsync : s.inuse ≠ s.pub)
    (harmed : s.armed ≠ true) : s.Hung :=
  ⟨h.initialised_of_busy (.inr (.inr (hop.trans_ne nofun))), hop, hsync, Bool.eq_false_iff.2 (mt h.runArmed harmed),
    Bool.eq_false_iff.2 harmed⟩

/-- The ticks till the adoption, a longest dwell and more each, and the dwell units till the next of them (R93). -/
def State.adoptionWork (s : State) : Nat := (63 - s.pc) * 64 + s.dwellCnt.toNat

/-- A refresh tick adopts, or brings the adoption nearer (R88). -/
theorem adopts_or_nearer {s t : State} (he : exec .rtick s = .next t) :
    t.inuse = t.pub ∨ t.adoptionWork < s.adoptionWork := by
  by_cases hlast : s.pc = 63
  · rw [rtick_inuse he, rtick_pub he, if_pos hlast]
    exact .inl rfl
  · right
    have hlt := pc_lt s
    have hcnt := t.dwellCnt.isLt
    rw [State.adoptionWork, State.adoptionWork, rtick_pc he]
    omega

/-- A host that waits comes to be answerable, or hangs. -/
theorem Run.synced_or_hung (hr : Run r) (h0 : (r 0).Inv) {l : List Word} (hwait : (r n).WaitsWith l) :
    ∃ m ≥ n, (r m).WaitsWith l ∧ ((r m).inuse = (r m).pub ∨ (r m).Hung) := by
  refine hr.progress (I := State.WaitsWith l) .dwellUnit State.adoptionWork (fun k hwait => ?_) hwait
  have hinv := hr.inv h0 k
  by_cases hsync : (r k).inuse = (r k).pub
  · exact .inl ⟨k, le_rfl, hwait, .inl hsync⟩
  by_cases harmed : (r k).armed = true
  case neg => exact .inl ⟨k, le_rfl, hwait, .inr (hinv.hung hwait.1 hsync harmed)⟩
  have hblocked : (r k).turn ≠ .host := fun ht => (hostReady_iff.1 (turn_host ht)).2 ⟨hwait.1, hsync⟩
  have hwait' := (keepsHost_of_step hblocked (hr k)).waitsWith hwait
  by_cases hturn : (r k).turn = .interrupt .refresh
  · have hstep : step (r k) = exec .rtick (r k) := by simp only [step, hturn]
    rcases adopts_or_nearer (hstep.symm.trans (hr k)) with hadopts | hnearer
    · exact .inl ⟨k + 1, k.le_succ, hwait', .inl hadopts⟩
    · exact .inr ⟨hwait', mem_movers_dwellUnit.2 harmed, hnearer.le, fun _ => hnearer⟩
  · obtain ⟨-, hpc, hadv⟩ :=
      step_before_refresh (hinv.initialised_of_busy (.inl harmed)) harmed hturn (hr k)
    refine .inr ⟨hwait', hadv.able, ?_, fun hunit => ?_⟩
    · rw [State.adoptionWork, State.adoptionWork, hpc]
      exact Nat.add_le_add_left hadv.le _
    · rw [State.adoptionWork, State.adoptionWork, hpc]
      exact Nat.add_lt_add_left (hadv.lt hunit) _

/-! ### The host's command completes (R101, R162) -/

/-- In step `m` the host's word `w` is answered, and `ws` are left. -/
def AnswersAt (r : Nat → State) (w : Word) (ws : List Word) (m : Nat) : Prop :=
  (r m).turn = .host ∧ (r m).cmds = w :: ws ∧ (r (m + 1)).cmds = ws

/-- A step of the host that runs a WAITSYNC whose condition holds completes it (R100). -/
theorem cmds_of_synced_waitsync {s t : State} {v : BitVec 16} (hinit : s.initialised = true) (hsync : s.inuse = s.pub)
    (hturn : s.turn = .host) (hport : s.atPort = some (.ok (.waitsync v))) (hstep : step s = .next t) :
    t.cmds = s.cmds.tail := by
  obtain ⟨ts, j, hs⟩ := settled_eq s
  rw [step_host_ok hturn hport, hs] at hstep
  obtain ⟨-, hanswer, -⟩ := waitSyncWaitsForAdoption.2 { s with turns := ts, draws := j } v hinit
  cases (hanswer hsync).symm.trans hstep
  rfl

/-- A WAITSYNC whose condition holds is answered: the condition stays until the host moves. -/
theorem Run.answers_of_synced (hr : Run r) (h0 : (r 0).Inv) (hwait : (r n).WaitsWith (w :: ws))
    (hsync : (r n).inuse = (r n).pub) : ∃ m ≥ n, AnswersAt r w ws m := by
  refine hr.progress (I := fun s => s.WaitsWith (w :: ws) ∧ s.inuse = s.pub) .host (fun _ => 0) (fun k hI => ?_)
    ⟨hwait, hsync⟩
  obtain ⟨⟨hop, hcmds⟩, hsync⟩ := hI
  have hinv := hr.inv h0 k
  have hinit := hinv.initialised_of_busy (.inr (.inr (hop.trans_ne nofun)))
  by_cases hturn : (r k).turn = .host
  · obtain ⟨v, hport⟩ := hinv.waiting hop
    have hdone := cmds_of_synced_waitsync hinit hsync hturn hport (hr k)
    exact .inl ⟨k, le_rfl, hturn, hcmds, by rw [hdone, hcmds, List.tail_cons]⟩
  · have hkeep := keepsHost_of_step hturn (hr k)
    have hable : Mover.host ∈ (r k).movers :=
      mem_movers_host.2 (hostReady_iff.2 ⟨by rw [hcmds]; exact List.cons_ne_nil w ws, fun h => h.2 hsync⟩)
    refine .inr ⟨⟨hkeep.waitsWith ⟨hop, hcmds⟩, ?_⟩, hable, le_rfl, fun h => absurd h hturn⟩
    rw [hkeep.pub]
    rcases step_inuse hinit (hr k) with hin | hin
    · exact hin.trans hsync
    · exact hin

/-- A command is answered, or comes to wait. -/
theorem Run.answers_or_waits (hr : Run r) (hcmds : (r n).cmds = w :: ws) :
    ∃ m ≥ n, AnswersAt r w ws m ∨ (r m).WaitsWith (w :: ws) := by
  refine hr.progress (I := fun s => s.cmds = w :: ws) .host State.copiesLeft (fun k hcmds => ?_) hcmds
  by_cases hop : (r k).hostOp = .waiting
  · exact .inl ⟨k, le_rfl, .inr ⟨hop, hcmds⟩⟩
  have hable : Mover.host ∈ (r k).movers :=
    mem_movers_host.2 (hostReady_iff.2 ⟨by rw [hcmds]; exact List.cons_ne_nil w ws, fun h => hop h.1⟩)
  by_cases hturn : (r k).turn = .host
  · rcases step_host_cases hturn (hr k) with hdone | hmore
    · exact .inl ⟨k, le_rfl, .inl ⟨hturn, hcmds, by rw [hdone, hcmds, List.tail_cons]⟩⟩
    · have hcmds' := hmore.cmds.trans hcmds
      rcases hmore.nearer with hwaits | hcopies
      · exact .inl ⟨k + 1, k.le_succ, .inr ⟨hwaits, hcmds'⟩⟩
      · exact .inr ⟨hcmds', hable, hcopies.le, fun _ => hcopies⟩
  · have hkeep := keepsHost_of_step hturn (hr k)
    exact .inr ⟨hkeep.cmds.trans hcmds, hable, hkeep.copiesLeft.le, fun h => absurd h hturn⟩

/-- A command is answered, or the host hangs on it. -/
theorem Run.answers_or_hangs (hr : Run r) (h0 : (r 0).Inv) (hcmds : (r n).cmds = w :: ws) :
    (∃ m ≥ n, AnswersAt r w ws m) ∨ ∃ m ≥ n, (r m).Hung ∧ (r m).cmds = w :: ws := by
  obtain ⟨k, hk, hanswers | hwait⟩ := hr.answers_or_waits hcmds
  · exact .inl ⟨k, hk, hanswers⟩
  obtain ⟨j, hj, hwait, hsync | hhung⟩ := hr.synced_or_hung h0 hwait
  · obtain ⟨m, hm, hanswers⟩ := hr.answers_of_synced h0 hwait hsync
    exact .inl ⟨m, hk.trans (hj.trans hm), hanswers⟩
  · exact .inr ⟨j, hk.trans hj, hhung, hwait.2⟩

/-- In step `m` a SETFRAME makes its exchange (R98). -/
def ExchangesAt (r : Nat → State) (m : Nat) : Prop :=
  (r m).hostOp = .copying ∧ (r (m + 1)).hostOp = .idle ∧ (r (m + 1)).pub = (r m).pend ∧ (r (m + 1)).pend = (r m).pub

/-- A step of the host that runs a SETFRAME makes its exchange or one of its copies (R96). -/
theorem exchanges_or_copies {s t : State} (hinit : s.initialised = true) (hturn : s.turn = .host)
    (hport : s.atPort = some (.ok .setframe)) (hstep : step s = .next t) :
    (t.hostOp = .idle ∧ t.pub = s.pend ∧ t.pend = s.pub) ∨ (t.hostOp = .copying ∧ t.copiesLeft < s.copiesLeft) := by
  obtain ⟨ts, j, hs⟩ := settled_eq s
  rw [step_host_ok hturn hport, hs] at hstep
  rcases exec_setframe_cases (s := { s with turns := ts, draws := j }) hinit with ⟨-, hx⟩ | ⟨hmem, u, hu, hcopies⟩
  · cases hx.symm.trans hstep
    rw [beginCopy_eq]
    exact .inl ⟨rfl, rfl, rfl⟩
  · cases hu.symm.trans hstep
    exact .inr ⟨hcopies.hostOp, hcopies.copiesLeft_lt hmem⟩

/-- A SETFRAME in its copy phase comes to its exchange. -/
theorem Run.exchanges (hr : Run r) (h0 : (r 0).Inv) (hop : (r n).hostOp = .copying) : ∃ m ≥ n, ExchangesAt r m := by
  refine hr.progress (I := fun s => s.hostOp = .copying) .host State.copiesLeft (fun k hop => ?_) hop
  have hinv := hr.inv h0 k
  have hport := hinv.copying hop
  have hable : Mover.host ∈ (r k).movers := by
    refine mem_movers_host.2 (hostReady_iff.2 ⟨fun hnil => ?_, fun h => nomatch hop.symm.trans h.1⟩)
    rw [State.atPort, hnil] at hport
    cases hport
  by_cases hturn : (r k).turn = .host
  · have hinit := hinv.initialised_of_busy (.inr (.inr (hop.trans_ne nofun)))
    rcases exchanges_or_copies hinit hturn hport (hr k) with hdone | ⟨hop', hfewer⟩
    · exact .inl ⟨k, le_rfl, hop, hdone⟩
    · exact .inr ⟨hop', hable, hfewer.le, fun _ => hfewer⟩
  · have hkeep := keepsHost_of_step hturn (hr k)
    exact .inr ⟨hkeep.hostOp.trans hop, hable, hkeep.copiesLeft.le, fun h => absurd h hturn⟩

/-- Settles O60, a clause a lemma: each measures what is left to do in units of one mover's moves, and a fair run brings the
measure down (`Run.progress`). -/
theorem everyRunIsFair : Obligations.EveryRunIsFair := by
  intro r hr h0 n
  refine ⟨hr.refresh_tick h0, fun _ => hr.colour_tick n, fun hruns k => ?_, fun w ws => hr.answers_or_hangs h0,
    hr.exchanges h0⟩
  obtain ⟨m, hm, hturn | hstop⟩ := hr.colour_tick (max n k)
  · exact ⟨m, (le_max_right n k).trans hm, hturn⟩
  · exact absurd (hruns m ((le_max_left n k).trans hm)) (ne_true_of_eq_false hstop)

end Sys2Proof.Machine
end
